-- ==== Sys2Proof/Word.lean ====
section
/-! DEFINITION. The words of the record decoder: the byte, and the raw four-byte string. -/

namespace Sys2Proof

/-- A byte: 8 bits, bit `i` of weight `2^i` (00_scope.md R10; log 5). -/
abbrev Byte := BitVec 8

/-- A raw string of four bytes in buffer order, `b0` first (00_scope.md R11). The magic pattern and every
identifier slot have this form. It has no byte order: two are equal when all four bytes are (20_memory.md R57). -/
structure Bytes4 where
  b0 : Byte
  b1 : Byte
  b2 : Byte
  b3 : Byte
deriving DecidableEq, Repr, Inhabited

/-- The four bytes as a byte string. -/
def Bytes4.toList (s : Bytes4) : List Byte := [s.b0, s.b1, s.b2, s.b3]

end Sys2Proof
end

