-- ==== Sys2Proof/Syntax.lean ====
section
/-! DEFINITION. The instructions: one constructor for each of the 30 rows of spec/opcode_table.json. -/

namespace Sys2Proof

/-- The byte an instruction's opcode stands in (00_scope.md R6): the flags byte of the standard header selects a
record form; the message_info byte of the extended header, the sub-opcode, selects a message class. -/
inductive OpSpace where
  | flags
  | msgInfo
deriving DecidableEq, Repr

/-- One constructor per row of spec/opcode_table.json.

A record form's word is the four-byte standard header (30_encoding.md R71, R79; log 8). Its operands are
`ign`, the flags bits 7:5 that select nothing and are copied (R84), `ctr`, the counter byte, and `len`, the
total_length field. `recMSBF` keeps the whole flags byte, since its row leaves seven bits of it free.

A message class's word is the message_info byte (30_encoding.md R73, R77). Its operands are `verb`, the bit
VERB, and the fields MTIN and MSTP where the row leaves them open. -/
inductive Instr where
  /-- `REC`: flags `& 0x1F = 0x00` (46_record_forms.md R200). -/
  | recBase (ign : BitVec 3) (ctr : Byte) (len : BitVec 16)
  /-- `REC.X`: flags `& 0x1F = 0x01` (46_record_forms.md R201). -/
  | recX (ign : BitVec 3) (ctr : Byte) (len : BitVec 16)
  /-- `REC.E`: flags `& 0x1F = 0x04` (46_record_forms.md R202). -/
  | recE (ign : BitVec 3) (ctr : Byte) (len : BitVec 16)
  /-- `REC.XE`: flags `& 0x1F = 0x05` (46_record_forms.md R203). -/
  | recXE (ign : BitVec 3) (ctr : Byte) (len : BitVec 16)
  /-- `REC.S`: flags `& 0x1F = 0x08` (46_record_forms.md R204). -/
  | recS (ign : BitVec 3) (ctr : Byte) (len : BitVec 16)
  /-- `REC.XS`: flags `& 0x1F = 0x09` (46_record_forms.md R205). -/
  | recXS (ign : BitVec 3) (ctr : Byte) (len : BitVec 16)
  /-- `REC.ES`: flags `& 0x1F = 0x0C` (46_record_forms.md R206). -/
  | recES (ign : BitVec 3) (ctr : Byte) (len : BitVec 16)
  /-- `REC.XES`: flags `& 0x1F = 0x0D` (46_record_forms.md R207). -/
  | recXES (ign : BitVec 3) (ctr : Byte) (len : BitVec 16)
  /-- `REC.T`: flags `& 0x1F = 0x10` (46_record_forms.md R208). -/
  | recT (ign : BitVec 3) (ctr : Byte) (len : BitVec 16)
  /-- `REC.XT`: flags `& 0x1F = 0x11` (46_record_forms.md R209). -/
  | recXT (ign : BitVec 3) (ctr : Byte) (len : BitVec 16)
  /-- `REC.ET`: flags `& 0x1F = 0x14` (46_record_forms.md R210). -/
  | recET (ign : BitVec 3) (ctr : Byte) (len : BitVec 16)
  /-- `REC.XET`: flags `& 0x1F = 0x15` (46_record_forms.md R211). -/
  | recXET (ign : BitVec 3) (ctr : Byte) (len : BitVec 16)
  /-- `REC.ST`: flags `& 0x1F = 0x18` (46_record_forms.md R212). -/
  | recST (ign : BitVec 3) (ctr : Byte) (len : BitVec 16)
  /-- `REC.XST`: flags `& 0x1F = 0x19` (46_record_forms.md R213). -/
  | recXST (ign : BitVec 3) (ctr : Byte) (len : BitVec 16)
  /-- `REC.EST`: flags `& 0x1F = 0x1C` (46_record_forms.md R214). -/
  | recEST (ign : BitVec 3) (ctr : Byte) (len : BitVec 16)
  /-- `REC.XEST`: flags `& 0x1F = 0x1D` (46_record_forms.md R215). -/
  | recXEST (ign : BitVec 3) (ctr : Byte) (len : BitVec 16)
  /-- `REC.MSBF`, the illegal form: flags `& 0x02 = 0x02` (46_record_forms.md R216). -/
  | recMSBF (flags : Byte) (ctr : Byte) (len : BitVec 16)
  /-- `MT.LOG.FATAL`: MSTP = 0, MTIN = 1 (44_extended_header.md R150). -/
  | mtLogFatal (verb : Bool)
  /-- `MT.LOG.ERROR`: MSTP = 0, MTIN = 2 (44_extended_header.md R151). -/
  | mtLogError (verb : Bool)
  /-- `MT.LOG.WARN`: MSTP = 0, MTIN = 3 (44_extended_header.md R152). -/
  | mtLogWarn (verb : Bool)
  /-- `MT.LOG.INFO`: MSTP = 0, MTIN = 4 (44_extended_header.md R153). -/
  | mtLogInfo (verb : Bool)
  /-- `MT.LOG.DEBUG`: MSTP = 0, MTIN = 5 (44_extended_header.md R154). -/
  | mtLogDebug (verb : Bool)
  /-- `MT.LOG.VERBOSE`: MSTP = 0, MTIN = 6 (44_extended_header.md R155). -/
  | mtLogVerbose (verb : Bool)
  /-- `MT.LOG.RSV0`: MSTP = 0, MTIN = 0 (44_extended_header.md R156). -/
  | mtLogRsv0 (verb : Bool)
  /-- `MT.LOG.RSV7`: MSTP = 0, MTIN = 7 (44_extended_header.md R157). -/
  | mtLogRsv7 (verb : Bool)
  /-- `MT.LOG.RSVHI`: MSTP = 0, MTIN = 8 .. 15 (44_extended_header.md R158). -/
  | mtLogRsvHi (mtin : BitVec 4) (verb : Bool)
  /-- `MT.APPTRACE`: MSTP = 1 (44_extended_header.md R159). -/
  | mtAppTrace (mtin : BitVec 4) (verb : Bool)
  /-- `MT.NETTRACE`: MSTP = 2 (44_extended_header.md R160). -/
  | mtNetTrace (mtin : BitVec 4) (verb : Bool)
  /-- `MT.CONTROL`: MSTP = 3 (44_extended_header.md R161). -/
  | mtControl (mtin : BitVec 4) (verb : Bool)
  /-- `MT.RSV`: MSTP = 4 .. 7 (44_extended_header.md R162). -/
  | mtRsv (mtin : BitVec 4) (mstp : BitVec 3) (verb : Bool)
deriving DecidableEq, Repr

/-- The byte an instruction is selected by. -/
def Instr.space : Instr → OpSpace
  | .recBase _ _ _ => .flags
  | .recX _ _ _ => .flags
  | .recE _ _ _ => .flags
  | .recXE _ _ _ => .flags
  | .recS _ _ _ => .flags
  | .recXS _ _ _ => .flags
  | .recES _ _ _ => .flags
  | .recXES _ _ _ => .flags
  | .recT _ _ _ => .flags
  | .recXT _ _ _ => .flags
  | .recET _ _ _ => .flags
  | .recXET _ _ _ => .flags
  | .recST _ _ _ => .flags
  | .recXST _ _ _ => .flags
  | .recEST _ _ _ => .flags
  | .recXEST _ _ _ => .flags
  | .recMSBF _ _ _ => .flags
  | .mtLogFatal _ => .msgInfo
  | .mtLogError _ => .msgInfo
  | .mtLogWarn _ => .msgInfo
  | .mtLogInfo _ => .msgInfo
  | .mtLogDebug _ => .msgInfo
  | .mtLogVerbose _ => .msgInfo
  | .mtLogRsv0 _ => .msgInfo
  | .mtLogRsv7 _ => .msgInfo
  | .mtLogRsvHi _ _ => .msgInfo
  | .mtAppTrace _ _ => .msgInfo
  | .mtNetTrace _ _ => .msgInfo
  | .mtControl _ _ => .msgInfo
  | .mtRsv _ _ _ => .msgInfo

end Sys2Proof
end

