-- ==== Sys2Proof/WellFormed.lean ====
section
/-! DEFINITION. Which instructions are well formed: those whose operands lie in the range their row leaves them. -/

namespace Sys2Proof

/-- The operands of an instruction lie where its row of spec/opcode_table.json lets them: the flags byte of
`REC.MSBF` has bit 1 set (46_record_forms.md R216), MTIN of `MT.LOG.RSVHI` is 8 to 15
(44_extended_header.md R158), MSTP of `MT.RSV` is 4 to 7 (R162). Every other operand takes every value of its
field. -/
def Instr.wellFormed : Instr → Bool
  | .recBase _ _ _ => true
  | .recX _ _ _ => true
  | .recE _ _ _ => true
  | .recXE _ _ _ => true
  | .recS _ _ _ => true
  | .recXS _ _ _ => true
  | .recES _ _ _ => true
  | .recXES _ _ _ => true
  | .recT _ _ _ => true
  | .recXT _ _ _ => true
  | .recET _ _ _ => true
  | .recXET _ _ _ => true
  | .recST _ _ _ => true
  | .recXST _ _ _ => true
  | .recEST _ _ _ => true
  | .recXEST _ _ _ => true
  | .recMSBF flags _ _ => flags.getLsbD 1
  | .mtLogFatal _ => true
  | .mtLogError _ => true
  | .mtLogWarn _ => true
  | .mtLogInfo _ => true
  | .mtLogDebug _ => true
  | .mtLogVerbose _ => true
  | .mtLogRsv0 _ => true
  | .mtLogRsv7 _ => true
  | .mtLogRsvHi mtin _ => mtin.getLsbD 3
  | .mtAppTrace _ _ => true
  | .mtNetTrace _ _ => true
  | .mtControl _ _ => true
  | .mtRsv _ mstp _ => mstp.getLsbD 2

end Sys2Proof
end

