-- ==== Sys2Proof/Decode.lean ====
section
/-! DEFINITION. The decoder: from bytes to an instruction, total, rejecting by name; and the encoder, from the same
tables (30_encoding.md R71 to R77, spec/opcode_table.json). -/

namespace Sys2Proof

/-- `BE16u(s) = 2^8*s[0] + s[1]`, big-endian (00_scope.md R14). -/
def be16u (s0 s1 : Byte) : BitVec 16 := s0 ++ s1

/-- The two bytes `be16u` reads, most significant first. -/
def be16uBytes (v : BitVec 16) : List Byte := [v.extractLsb' 8 8, v.extractLsb' 0 8]

/-! ### The bits of the two opcode bytes (30_encoding.md R72, R73) -/

/-- Flags bit 0, UEH: the extended header is present. -/
def flagUEH (f : Byte) : Bool := f.getLsbD 0
/-- Flags bit 1, MSBF: big-endian payload, unsupported. -/
def flagMSBF (f : Byte) : Bool := f.getLsbD 1
/-- Flags bit 2, WEID: the sender-id extension is present. -/
def flagWEID (f : Byte) : Bool := f.getLsbD 2
/-- Flags bit 3, WSID: the session-id extension is present. -/
def flagWSID (f : Byte) : Bool := f.getLsbD 3
/-- Flags bit 4, WTMS: the timestamp extension is present. -/
def flagWTMS (f : Byte) : Bool := f.getLsbD 4
/-- Flags bits 7:5, which select nothing (R84). -/
def flagIgnored (f : Byte) : BitVec 3 := f.extractLsb' 5 3

/-- message_info bit 0, VERB. -/
def infoVerb (b : Byte) : Bool := b.getLsbD 0
/-- message_info bits 3:1, MSTP. -/
def infoMstp (b : Byte) : BitVec 3 := b.extractLsb' 1 3
/-- message_info bits 7:4, MTIN. -/
def infoMtin (b : Byte) : BitVec 4 := b.extractLsb' 4 4

/-- A flags byte from its ignored bits 7:5 and its selecting bits 4:0. -/
def flagsByte (ign : BitVec 3) (low : BitVec 5) : Byte := ign ++ low

/-- A message_info byte from MTIN, MSTP and VERB. -/
def infoByte (mtin : BitVec 4) (mstp : BitVec 3) (verb : Bool) : Byte := mtin ++ mstp ++ BitVec.ofBool verb

/-! ### The decoder -/

/-- The form map (30_encoding.md R76): MSBF is looked at first, then bits 4, 3, 2, 0. -/
def decodeForm (flags ctr : Byte) (len : BitVec 16) : Instr :=
  if flagMSBF flags then .recMSBF flags ctr len
  else
    match flagWTMS flags, flagWSID flags, flagWEID flags, flagUEH flags with
    | false, false, false, false => .recBase (flagIgnored flags) ctr len
    | false, false, false, true => .recX (flagIgnored flags) ctr len
    | false, false, true, false => .recE (flagIgnored flags) ctr len
    | false, false, true, true => .recXE (flagIgnored flags) ctr len
    | false, true, false, false => .recS (flagIgnored flags) ctr len
    | false, true, false, true => .recXS (flagIgnored flags) ctr len
    | false, true, true, false => .recES (flagIgnored flags) ctr len
    | false, true, true, true => .recXES (flagIgnored flags) ctr len
    | true, false, false, false => .recT (flagIgnored flags) ctr len
    | true, false, false, true => .recXT (flagIgnored flags) ctr len
    | true, false, true, false => .recET (flagIgnored flags) ctr len
    | true, false, true, true => .recXET (flagIgnored flags) ctr len
    | true, true, false, false => .recST (flagIgnored flags) ctr len
    | true, true, false, true => .recXST (flagIgnored flags) ctr len
    | true, true, true, false => .recEST (flagIgnored flags) ctr len
    | true, true, true, true => .recXEST (flagIgnored flags) ctr len

/-- The class map (30_encoding.md R77): MSTP is looked at first, MTIN only when MSTP is 0, VERB never. -/
def decodeMsgInfo (b : Byte) : Instr :=
  match b.getLsbD 3, b.getLsbD 2, b.getLsbD 1 with
  | true, _, _ => .mtRsv (infoMtin b) (infoMstp b) (infoVerb b)
  | false, false, true => .mtAppTrace (infoMtin b) (infoVerb b)
  | false, true, false => .mtNetTrace (infoMtin b) (infoVerb b)
  | false, true, true => .mtControl (infoMtin b) (infoVerb b)
  | false, false, false =>
    match b.getLsbD 7, b.getLsbD 6, b.getLsbD 5, b.getLsbD 4 with
    | false, false, false, false => .mtLogRsv0 (infoVerb b)
    | false, false, false, true => .mtLogFatal (infoVerb b)
    | false, false, true, false => .mtLogError (infoVerb b)
    | false, false, true, true => .mtLogWarn (infoVerb b)
    | false, true, false, false => .mtLogInfo (infoVerb b)
    | false, true, false, true => .mtLogDebug (infoVerb b)
    | false, true, true, false => .mtLogVerbose (infoVerb b)
    | false, true, true, true => .mtLogRsv7 (infoVerb b)
    | true, _, _, _ => .mtLogRsvHi (infoMtin b) (infoVerb b)

/-- Why bytes are not an instruction. Every value of the opcode byte selects a row (30_encoding.md R76, R77), so
the only reason is that the word is not all there. -/
inductive DecodeReject where
  /-- Fewer bytes than the instruction's word: 4 for a record form, 1 for a message class. -/
  | shortWord
deriving DecidableEq, Repr

/-- The instruction at the front of a byte string, read in the given space, and the bytes after its word. -/
def decode : OpSpace → List Byte → Except DecodeReject (Instr × List Byte)
  | .flags, flags :: ctr :: l0 :: l1 :: rest => .ok (decodeForm flags ctr (be16u l0 l1), rest)
  | .flags, _ => .error .shortWord
  | .msgInfo, b :: rest => .ok (decodeMsgInfo b, rest)
  | .msgInfo, [] => .error .shortWord

/-! ### The encoder -/

/-- The opcode byte of an instruction: the flags byte of a form, the message_info byte of a class. -/
def Instr.opcodeByte : Instr → Byte
  | .recBase ign _ _ => flagsByte ign 0x00#5
  | .recX ign _ _ => flagsByte ign 0x01#5
  | .recE ign _ _ => flagsByte ign 0x04#5
  | .recXE ign _ _ => flagsByte ign 0x05#5
  | .recS ign _ _ => flagsByte ign 0x08#5
  | .recXS ign _ _ => flagsByte ign 0x09#5
  | .recES ign _ _ => flagsByte ign 0x0C#5
  | .recXES ign _ _ => flagsByte ign 0x0D#5
  | .recT ign _ _ => flagsByte ign 0x10#5
  | .recXT ign _ _ => flagsByte ign 0x11#5
  | .recET ign _ _ => flagsByte ign 0x14#5
  | .recXET ign _ _ => flagsByte ign 0x15#5
  | .recST ign _ _ => flagsByte ign 0x18#5
  | .recXST ign _ _ => flagsByte ign 0x19#5
  | .recEST ign _ _ => flagsByte ign 0x1C#5
  | .recXEST ign _ _ => flagsByte ign 0x1D#5
  | .recMSBF flags _ _ => flags
  | .mtLogFatal verb => infoByte 1#4 0#3 verb
  | .mtLogError verb => infoByte 2#4 0#3 verb
  | .mtLogWarn verb => infoByte 3#4 0#3 verb
  | .mtLogInfo verb => infoByte 4#4 0#3 verb
  | .mtLogDebug verb => infoByte 5#4 0#3 verb
  | .mtLogVerbose verb => infoByte 6#4 0#3 verb
  | .mtLogRsv0 verb => infoByte 0#4 0#3 verb
  | .mtLogRsv7 verb => infoByte 7#4 0#3 verb
  | .mtLogRsvHi mtin verb => infoByte mtin 0#3 verb
  | .mtAppTrace mtin verb => infoByte mtin 1#3 verb
  | .mtNetTrace mtin verb => infoByte mtin 2#3 verb
  | .mtControl mtin verb => infoByte mtin 3#3 verb
  | .mtRsv mtin mstp verb => infoByte mtin mstp verb

/-- The bytes of a form's word after its flags byte: counter, then total_length big-endian (30_encoding.md R71). -/
def headerTail (ctr : Byte) (len : BitVec 16) : List Byte := ctr :: be16uBytes len

/-- The bytes after the opcode byte of an instruction's word. -/
def Instr.wordTail : Instr → List Byte
  | .recBase _ ctr len => headerTail ctr len
  | .recX _ ctr len => headerTail ctr len
  | .recE _ ctr len => headerTail ctr len
  | .recXE _ ctr len => headerTail ctr len
  | .recS _ ctr len => headerTail ctr len
  | .recXS _ ctr len => headerTail ctr len
  | .recES _ ctr len => headerTail ctr len
  | .recXES _ ctr len => headerTail ctr len
  | .recT _ ctr len => headerTail ctr len
  | .recXT _ ctr len => headerTail ctr len
  | .recET _ ctr len => headerTail ctr len
  | .recXET _ ctr len => headerTail ctr len
  | .recST _ ctr len => headerTail ctr len
  | .recXST _ ctr len => headerTail ctr len
  | .recEST _ ctr len => headerTail ctr len
  | .recXEST _ ctr len => headerTail ctr len
  | .recMSBF _ ctr len => headerTail ctr len
  | .mtLogFatal _ => []
  | .mtLogError _ => []
  | .mtLogWarn _ => []
  | .mtLogInfo _ => []
  | .mtLogDebug _ => []
  | .mtLogVerbose _ => []
  | .mtLogRsv0 _ => []
  | .mtLogRsv7 _ => []
  | .mtLogRsvHi _ _ => []
  | .mtAppTrace _ _ => []
  | .mtNetTrace _ _ => []
  | .mtControl _ _ => []
  | .mtRsv _ _ _ => []

/-- The word of an instruction. -/
def encode (i : Instr) : List Byte := i.opcodeByte :: i.wordTail

/-! ### The opcode table -/

/-- A row of spec/opcode_table.json: its mnemonic, the byte it is selected by, its mask and its match. -/
structure OpRow where
  mnemonic : String
  space : OpSpace
  mask : Byte
  pattern : Byte
deriving DecidableEq, Repr

/-- The row of each instruction, as spec/opcode_table.json gives it. -/
def Instr.row : Instr → OpRow
  | .recBase _ _ _ => ⟨"REC", .flags, 0x1F#8, 0x00#8⟩
  | .recX _ _ _ => ⟨"REC.X", .flags, 0x1F#8, 0x01#8⟩
  | .recE _ _ _ => ⟨"REC.E", .flags, 0x1F#8, 0x04#8⟩
  | .recXE _ _ _ => ⟨"REC.XE", .flags, 0x1F#8, 0x05#8⟩
  | .recS _ _ _ => ⟨"REC.S", .flags, 0x1F#8, 0x08#8⟩
  | .recXS _ _ _ => ⟨"REC.XS", .flags, 0x1F#8, 0x09#8⟩
  | .recES _ _ _ => ⟨"REC.ES", .flags, 0x1F#8, 0x0C#8⟩
  | .recXES _ _ _ => ⟨"REC.XES", .flags, 0x1F#8, 0x0D#8⟩
  | .recT _ _ _ => ⟨"REC.T", .flags, 0x1F#8, 0x10#8⟩
  | .recXT _ _ _ => ⟨"REC.XT", .flags, 0x1F#8, 0x11#8⟩
  | .recET _ _ _ => ⟨"REC.ET", .flags, 0x1F#8, 0x14#8⟩
  | .recXET _ _ _ => ⟨"REC.XET", .flags, 0x1F#8, 0x15#8⟩
  | .recST _ _ _ => ⟨"REC.ST", .flags, 0x1F#8, 0x18#8⟩
  | .recXST _ _ _ => ⟨"REC.XST", .flags, 0x1F#8, 0x19#8⟩
  | .recEST _ _ _ => ⟨"REC.EST", .flags, 0x1F#8, 0x1C#8⟩
  | .recXEST _ _ _ => ⟨"REC.XEST", .flags, 0x1F#8, 0x1D#8⟩
  | .recMSBF _ _ _ => ⟨"REC.MSBF", .flags, 0x02#8, 0x02#8⟩
  | .mtLogFatal _ => ⟨"MT.LOG.FATAL", .msgInfo, 0xFE#8, 0x10#8⟩
  | .mtLogError _ => ⟨"MT.LOG.ERROR", .msgInfo, 0xFE#8, 0x20#8⟩
  | .mtLogWarn _ => ⟨"MT.LOG.WARN", .msgInfo, 0xFE#8, 0x30#8⟩
  | .mtLogInfo _ => ⟨"MT.LOG.INFO", .msgInfo, 0xFE#8, 0x40#8⟩
  | .mtLogDebug _ => ⟨"MT.LOG.DEBUG", .msgInfo, 0xFE#8, 0x50#8⟩
  | .mtLogVerbose _ => ⟨"MT.LOG.VERBOSE", .msgInfo, 0xFE#8, 0x60#8⟩
  | .mtLogRsv0 _ => ⟨"MT.LOG.RSV0", .msgInfo, 0xFE#8, 0x00#8⟩
  | .mtLogRsv7 _ => ⟨"MT.LOG.RSV7", .msgInfo, 0xFE#8, 0x70#8⟩
  | .mtLogRsvHi _ _ => ⟨"MT.LOG.RSVHI", .msgInfo, 0x8E#8, 0x80#8⟩
  | .mtAppTrace _ _ => ⟨"MT.APPTRACE", .msgInfo, 0x0E#8, 0x02#8⟩
  | .mtNetTrace _ _ => ⟨"MT.NETTRACE", .msgInfo, 0x0E#8, 0x04#8⟩
  | .mtControl _ _ => ⟨"MT.CONTROL", .msgInfo, 0x0E#8, 0x06#8⟩
  | .mtRsv _ _ _ => ⟨"MT.RSV", .msgInfo, 0x08#8, 0x08#8⟩

/-- The 17 rows on the flags byte, in the table's order. -/
def formRows : List OpRow := [
  ⟨"REC", .flags, 0x1F#8, 0x00#8⟩,
  ⟨"REC.X", .flags, 0x1F#8, 0x01#8⟩,
  ⟨"REC.E", .flags, 0x1F#8, 0x04#8⟩,
  ⟨"REC.XE", .flags, 0x1F#8, 0x05#8⟩,
  ⟨"REC.S", .flags, 0x1F#8, 0x08#8⟩,
  ⟨"REC.XS", .flags, 0x1F#8, 0x09#8⟩,
  ⟨"REC.ES", .flags, 0x1F#8, 0x0C#8⟩,
  ⟨"REC.XES", .flags, 0x1F#8, 0x0D#8⟩,
  ⟨"REC.T", .flags, 0x1F#8, 0x10#8⟩,
  ⟨"REC.XT", .flags, 0x1F#8, 0x11#8⟩,
  ⟨"REC.ET", .flags, 0x1F#8, 0x14#8⟩,
  ⟨"REC.XET", .flags, 0x1F#8, 0x15#8⟩,
  ⟨"REC.ST", .flags, 0x1F#8, 0x18#8⟩,
  ⟨"REC.XST", .flags, 0x1F#8, 0x19#8⟩,
  ⟨"REC.EST", .flags, 0x1F#8, 0x1C#8⟩,
  ⟨"REC.XEST", .flags, 0x1F#8, 0x1D#8⟩,
  ⟨"REC.MSBF", .flags, 0x02#8, 0x02#8⟩
]

/-- The 13 rows on the message_info byte, in the table's order. -/
def classRows : List OpRow := [
  ⟨"MT.LOG.FATAL", .msgInfo, 0xFE#8, 0x10#8⟩,
  ⟨"MT.LOG.ERROR", .msgInfo, 0xFE#8, 0x20#8⟩,
  ⟨"MT.LOG.WARN", .msgInfo, 0xFE#8, 0x30#8⟩,
  ⟨"MT.LOG.INFO", .msgInfo, 0xFE#8, 0x40#8⟩,
  ⟨"MT.LOG.DEBUG", .msgInfo, 0xFE#8, 0x50#8⟩,
  ⟨"MT.LOG.VERBOSE", .msgInfo, 0xFE#8, 0x60#8⟩,
  ⟨"MT.LOG.RSV0", .msgInfo, 0xFE#8, 0x00#8⟩,
  ⟨"MT.LOG.RSV7", .msgInfo, 0xFE#8, 0x70#8⟩,
  ⟨"MT.LOG.RSVHI", .msgInfo, 0x8E#8, 0x80#8⟩,
  ⟨"MT.APPTRACE", .msgInfo, 0x0E#8, 0x02#8⟩,
  ⟨"MT.NETTRACE", .msgInfo, 0x0E#8, 0x04#8⟩,
  ⟨"MT.CONTROL", .msgInfo, 0x0E#8, 0x06#8⟩,
  ⟨"MT.RSV", .msgInfo, 0x08#8, 0x08#8⟩
]

/-- A byte selects a row when its masked bits are the row's. -/
def OpRow.selects (r : OpRow) (b : Byte) : Bool := b &&& r.mask == r.pattern

/-! ### The host's view of the decoder -/

/-- The bytes of the four-byte word whose bits are the low `nbits` bits of `w`, numbered as
spec/opcode_table.json numbers them: bit 0 is bit 0 of the flags byte, each later byte counts on (log 8). -/
def tableWordBytes (nbits w : Nat) : List Byte :=
  let v := w % 2 ^ nbits
  [BitVec.ofNat 8 v, BitVec.ofNat 8 (v / 2 ^ 8), BitVec.ofNat 8 (v / 2 ^ 16), BitVec.ofNat 8 (v / 2 ^ 24)]

/-- The instruction the decoder reads from the bits `w`: a record form, since a program is fetched by its flags
byte; a message class is read inside a record with an extended header, not fetched (log 8). -/
def decodeTableWord (nbits w : Nat) : Option Instr :=
  match decode .flags (tableWordBytes nbits w) with
  | .ok (i, _) => some i
  | .error _ => none

end Sys2Proof
end

