-- ==== Sys2Proof/Config.lean ====
section
/-! DEFINITION. The parameters of 00_scope.md R9: the constants the format fixes, the configuration of an
instance, and the parameters the spec leaves OPEN as constants without a body. -/

namespace Sys2Proof

/-- `STORAGE_LEN`: bytes of the storage header (R9). -/
@[simp] def Config.storageLen : Nat := 16
/-- `STANDARD_LEN`: bytes of the standard header (R9). -/
@[simp] def Config.standardLen : Nat := 4
/-- `EXT_FIELD_LEN`: bytes of each optional extension field (R9). -/
@[simp] def Config.extFieldLen : Nat := 4
/-- `EXTENDED_LEN`: bytes of the extended header (R9). -/
@[simp] def Config.extendedLen : Nat := 10
/-- `RESERVED_LEN`: bytes of the reserved field (R9). -/
@[simp] def Config.reservedLen : Nat := 6
/-- `BASE_COMP`: the constant added in the payload-length formula (R9, 45_record_decoder.md R176). -/
@[simp] def Config.baseComp : Nat := 16
/-- `USEC_PER_SEC`: divisor of the microseconds field (R9). -/
@[simp] def Config.usecPerSec : Nat := 1000000
/-- Nanoseconds in a microsecond (41_storage_header.md R113). -/
@[simp] def Config.nsecPerUsec : Nat := 1000

/-- The configuration of one instance that is plain data: `MAGIC`, the pattern the storage header must hold,
and `AW`, the width in bits of a buffer offset (R9). Fixed for the life of the instance: no operation of the
model changes it. DESIGN CHOICE: held beside the state (log 1, log 2). -/
structure Config where
  magic : Bytes4
  aw : Nat
deriving DecidableEq, Repr

/-- `AW` is a positive integer (92_eei_decisions.md, the table of OPEN parameters). -/
def Config.legal (c : Config) : Bool := decide (0 < c.aw)

/-- OPEN parameter `MAGIC`: any four-byte constant (92_eei_decisions.md D2; log 1). -/
opaque Config.openMagic : Bytes4

/-- OPEN parameter `AW`, less one, so that `AW` is positive (92_eei_decisions.md D4; log 2). -/
opaque Config.openAwLessOne : Nat

/-- OPEN parameter `NEG_USEC`: (`TS_SEC`, `TS_NSEC`) of a record whose microseconds field is negative, a total
function of the seconds field and the microseconds field (41_storage_header.md R115; 92_eei_decisions.md D14;
log 3). Applied to a non-negative microseconds field nowhere. -/
opaque Config.negUsec : BitVec 32 → BitVec 32 → BitVec 64 × BitVec 30

/-- OPEN parameter `LOSSY_TEXT`: the text of an identifier's bytes, a total function of the bytes alone
(40_nulltrim_text.md R104; 92_eei_decisions.md D15; log 4). -/
opaque Config.lossyText : List Byte → String

/-- The configuration about which nothing is known: the one `State.reset` holds. -/
def Config.unspecified : Config := { magic := Config.openMagic, aw := Config.openAwLessOne + 1 }

end Sys2Proof
end

