-- ==== Sys2Proof/Machine/State.lean ====
section
/-! DEFINITION. The state of one instance of the record decoder (10_state.md), as plain data. -/

namespace Sys2Proof.Machine

/-! ### Enumerated values (00_scope.md R16) -/

/-- `LogLevel` (R16). -/
inductive LogLevel where
  | fatal
  | error
  | warn
  | info
  | debug
  | verbose
  | reserved
deriving DecidableEq, Repr

/-- `MessageType` (R16). `log` carries the level; the others carry none (10_state.md R28). -/
inductive MessageType where
  | log (level : LogLevel)
  | applicationTrace
  | networkTrace
  | control
  | reserved
deriving DecidableEq, Repr

/-- `DecodeError`: the four exceptions of the block (R16, 60_exceptions.md R240). -/
inductive DecodeError where
  /-- Fewer bytes available than a fixed field requires. -/
  | truncatedInput
  /-- The storage header's pattern is not `MAGIC`. -/
  | invalidMagic
  /-- The big-endian payload flag is set. -/
  | unsupportedByteOrder
  /-- The computed payload length is negative or exceeds the remaining buffer. -/
  | payloadLengthOutOfRange
deriving DecidableEq, Repr

/-- `STATUS` (10_state.md R31, R32). Its two-bit codes are a presentation (Machine/HostRead.lean; log 10). -/
inductive Status where
  | idle
  | ready
  | done
  | error
deriving DecidableEq, Repr

/-- `ERR_CODE` (10_state.md R31): no error, or one of the four. Its codes are a presentation (log 10). -/
inductive ErrCode where
  | noError
  | err (e : DecodeError)
deriving DecidableEq, Repr

/-! ### The Record (10_state.md R25) -/

/-- A view: the bytes `BUF[off .. off+len)`, by absolute offset and length (00_scope.md R11). -/
structure View where
  off : Nat
  len : Nat
deriving DecidableEq, Repr

/-- `StorageHeader` (R25): pattern, timestamp `(TS_SEC, TS_NSEC)`, sender id. -/
structure StorageHeader where
  pattern : Bytes4
  tsSec : BitVec 64
  tsNsec : BitVec 30
  senderId : View
deriving DecidableEq, Repr

/-- `StandardHeader` (R25). -/
structure StandardHeader where
  flags : Byte
  counter : Byte
  totalLength : BitVec 16
deriving DecidableEq, Repr

/-- `ExtendedHeader` (R25). The verbose bit, MSTP, MTIN and the MessageType are derived from `messageInfo`. -/
structure ExtendedHeader where
  messageInfo : Byte
  argumentCount : Byte
  applicationId : View
  contextId : View
deriving DecidableEq, Repr

/-- One committed record (R25). -/
structure Record where
  storage : StorageHeader
  standard : StandardHeader
  extended : Option ExtendedHeader
  payload : View
deriving DecidableEq, Repr

/-! ### The registers -/

/-- The record output registers (10_state.md R26), one field each. `none` is the spec's "holds no value" (R27):
a state of the register, not a missing reset value (log 11). -/
structure RecRegs where
  /-- `REC_VALID` -/
  recValid : Bool
  /-- `SH_PATTERN` -/
  shPattern : Option Bytes4
  /-- `TS_SEC` -/
  tsSec : Option (BitVec 64)
  /-- `TS_NSEC` -/
  tsNsec : Option (BitVec 30)
  /-- `SENDER_OFF` -/
  senderOff : Option Nat
  /-- `SENDER_LEN` -/
  senderLen : Option (BitVec 3)
  /-- `FLAGS` -/
  flags : Option Byte
  /-- `COUNTER` -/
  counter : Option Byte
  /-- `TOTAL_LENGTH` -/
  totalLength : Option (BitVec 16)
  /-- `EXT_PRESENT` -/
  extPresent : Option Bool
  /-- `MSG_INFO` -/
  msgInfo : Option Byte
  /-- `ARG_COUNT` -/
  argCount : Option Byte
  /-- `APID_OFF` -/
  apidOff : Option Nat
  /-- `APID_LEN` -/
  apidLen : Option (BitVec 3)
  /-- `CTID_OFF` -/
  ctidOff : Option Nat
  /-- `CTID_LEN` -/
  ctidLen : Option (BitVec 3)
  /-- `VERBOSE` -/
  verbose : Option Bool
  /-- `MSTP` -/
  mstp : Option (BitVec 3)
  /-- `MTIN` -/
  mtin : Option (BitVec 4)
  /-- `MTYPE` -/
  mtype : Option MessageType
  /-- `PAY_OFF` -/
  payOff : Option Nat
  /-- `PAY_LEN` -/
  payLen : Option (BitVec 16)
deriving DecidableEq, Repr

/-- Every record output register without a value and `REC_VALID = 0`: after RESET, LOAD and an error (R27, R45). -/
def RecRegs.noValue : RecRegs where
  recValid := false
  shPattern := none
  tsSec := none
  tsNsec := none
  senderOff := none
  senderLen := none
  flags := none
  counter := none
  totalLength := none
  extPresent := none
  msgInfo := none
  argCount := none
  apidOff := none
  apidLen := none
  ctidOff := none
  ctidLen := none
  verbose := none
  mstp := none
  mtin := none
  mtype := none
  payOff := none
  payLen := none

/-- The name of every register a host can read (10_state.md R26, R31). -/
inductive Reg where
  | recValid
  | shPattern
  | tsSec
  | tsNsec
  | senderOff
  | senderLen
  | flags
  | counter
  | totalLength
  | extPresent
  | msgInfo
  | argCount
  | apidOff
  | apidLen
  | ctidOff
  | ctidLen
  | verbose
  | mstp
  | mtin
  | mtype
  | payOff
  | payLen
  | len
  | cur
  | recIndex
  | status
  | errCode
  | errRec
  | errOff
deriving DecidableEq, Repr

/-! ### The buffer -/

/-- `BUF` (20_memory.md R50): the bytes that are not zero, as (offset, byte), offsets strictly rising (log 6). -/
abbrev Memory := List Host.Cell

/-- The byte an offset that the list leaves out holds. DESIGN CHOICE, log 6: LOAD gives every byte of the buffer, so
below LEN this is the representation of a loaded zero byte and stands for no unknown byte. -/
def Memory.unlisted : Byte := 0#8

/-! ### The state -/

/-- The whole state of an instance (10_state.md R20). Offsets are unbounded naturals (00_scope.md R9; log 2). -/
structure State where
  /-- The configuration: a constant of the instance, no state of the spec (R20; log 1). -/
  cfg : Config
  /-- `BUF` -/
  mem : Memory
  /-- `LEN` -/
  len : Nat
  /-- `CUR`, the program counter (R22) -/
  cur : Nat
  /-- `REC_INDEX` -/
  recIndex : Nat
  /-- `STATUS` -/
  status : Status
  /-- `ERR_CODE` -/
  errCode : ErrCode
  /-- `ERR_REC` -/
  errRec : Option Nat
  /-- `ERR_OFF` -/
  errOff : Option Nat
  /-- The record output registers -/
  regs : RecRegs
  /-- `OUT`, oldest first (R34) -/
  out : List Record
deriving DecidableEq, Repr

/-- An instance with configuration `c` right after RESET: every value of the table of 10_state.md R45. -/
def State.resetOf (c : Config) : State where
  cfg := c
  mem := []
  len := 0
  cur := 0
  recIndex := 0
  status := .idle
  errCode := .noError
  errRec := none
  errOff := none
  regs := RecRegs.noValue
  out := []

/-- The machine right after reset (R45, 70_reset_and_hazards.md R280), with the configuration left open. -/
def State.reset : State := State.resetOf Config.unspecified

/-- What stops the model with a fault. No step raises one: the block has no access fault (20_memory.md R56) and its
four errors are taken in registers (60_exceptions.md R250). -/
inductive Fault where
  /-- Raised by `State.readField` and what reads through it: the host reads bytes, by offset or by a view, that are not
  inside the loaded buffer. Safe: there is no such byte (20_memory.md R50), and the spec gives the read no meaning
  (70_reset_and_hazards.md R290; log 13). -/
  | viewOutsideBuffer (v : View)
deriving DecidableEq, Repr

/-- What the model refuses. No step answers one. -/
inductive Refusal where
  /-- Raised by an arm of `exec` whose instruction has no meaning yet: none. Safe. -/
  | notModelled (mnemonic : String)
  /-- Raised by LOAD of `length` bytes when `length < 2^AW` fails, which is no operand of LOAD
  (47_record_stream.md R223). Safe. -/
  | bufferTooLong (length : Nat)
  /-- Raised by `State.readReg` on a register that holds no value (93_implementation_defined.md U16). Safe. -/
  | noValue (r : Reg)
  /-- Raised by `State.readView` on a view inside the loaded buffer that is a view of no Record emitted since the last
  LOAD (70_reset_and_hazards.md R290, 93_implementation_defined.md U8; log 13). Safe. -/
  | staleView (v : View)
deriving DecidableEq, Repr

end Sys2Proof.Machine
end

