-- ==== Sys2Proof/Machine/Flags.lean ====
section
/-! DEFINITION. What the flags byte and the message_info byte compute: the header's lengths (30_encoding.md R70, R71)
and CLASSIFY (44_extended_header.md R142). The block has no condition codes (10_state.md R30). -/

namespace Sys2Proof.Machine

/-! ### The flags byte -/

/-- `ueh = flags[0]` as a number (00_scope.md R19). -/
def ueh (f : Byte) : Nat := (flagUEH f).toNat

/-- `n_ext = flags[2] + flags[3] + flags[4]` (00_scope.md R19). -/
def nExt (f : Byte) : Nat := (flagWEID f).toNat + (flagWSID f).toNat + (flagWTMS f).toNat

/-- `e = 20 + 4*n_ext`: record offset of the extended header (30_encoding.md R71). -/
def extOffset (f : Byte) : Nat := 20 + 4 * nExt f

/-- `r = e + 10*ueh`: record offset of the reserved field (R71). -/
def rsvOffset (f : Byte) : Nat := extOffset f + 10 * ueh f

/-- `H = 26 + 4*n_ext + 10*ueh`: bytes of the header part, and record offset of the payload (R70, R71). -/
def headerLen (f : Byte) : Nat := rsvOffset f + 6

/-! ### The message_info byte -/

/-- `LEVEL(i)` (44_extended_header.md R142). -/
def level (i : BitVec 4) : LogLevel :=
  match i.toNat with
  | 1 => .fatal
  | 2 => .error
  | 3 => .warn
  | 4 => .info
  | 5 => .debug
  | 6 => .verbose
  | _ => .reserved

/-- What CLASSIFY returns (R142). -/
structure ClassOut where
  verbose : Bool
  mstp : BitVec 3
  mtin : BitVec 4
  mtype : MessageType
deriving DecidableEq, Repr

/-- The MessageType of MSTP and MTIN (R142): the level is looked at only when MSTP is 0 (R144). -/
def messageType (mstp : BitVec 3) (mtin : BitVec 4) : MessageType :=
  match mstp.toNat with
  | 0 => .log (level mtin)
  | 1 => .applicationTrace
  | 2 => .networkTrace
  | 3 => .control
  | _ => .reserved

/-- `CLASSIFY(b)` (R142): total on the 256 bytes. -/
def classify (b : Byte) : ClassOut where
  verbose := infoVerb b
  mstp := infoMstp b
  mtin := infoMtin b
  mtype := messageType (infoMstp b) (infoMtin b)

end Sys2Proof.Machine
end

