-- ==== Sys2Proof/Machine/Ops.lean ====
section
/-! DEFINITION. The named operations over the buffer and the registers: the read of a byte, Take, commit, the error
entry (taking an exception), and the ways out of it, LOAD and RESET. -/

namespace Sys2Proof.Machine

/-! ### The buffer -/

/-- The byte at an offset. Used below LEN only: `take` checks first (20_memory.md R56). -/
def Memory.read : Memory → Nat → Byte
  | [], _ => Memory.unlisted
  | (a, b) :: m, x => if a = x then b else Memory.read m x

/-- `MemRead(a, n)` (00_scope.md R13): the `n` bytes from offset `a` on, in buffer order. -/
def Memory.readBytes (m : Memory) : Nat → Nat → List Byte
  | _, 0 => []
  | a, n + 1 => m.read a :: Memory.readBytes m (a + 1) n

/-- The four bytes from offset `a` on. -/
def Memory.read4 (m : Memory) (a : Nat) : Bytes4 := ⟨m.read a, m.read (a + 1), m.read (a + 2), m.read (a + 3)⟩

/-- The canonical form, for offsets at or above `lo`: offsets strictly rising, no byte equal to the unlisted one. -/
def Memory.wfFrom (lo : Nat) : Memory → Bool
  | [] => true
  | (a, b) :: m => decide (lo ≤ a) && b != Memory.unlisted && Memory.wfFrom (a + 1) m

/-- The memory is in its canonical form (log 6). -/
def Memory.wf (m : Memory) : Bool := Memory.wfFrom 0 m

/-- Every listed offset is below `len`: the list holds bytes of the buffer only. -/
def Memory.below (len : Nat) (m : Memory) : Bool := m.all fun c => decide (c.1 < len)

/-- The memory that holds a byte string from offset `a` on, and nothing else. -/
def Memory.ofBytesFrom : Nat → List Byte → Memory
  | _, [] => []
  | a, b :: bs =>
    if b = Memory.unlisted then Memory.ofBytesFrom (a + 1) bs else (a, b) :: Memory.ofBytesFrom (a + 1) bs

/-- The buffer a LOAD leaves: the byte string at offsets 0, 1, … (47_record_stream.md R223). -/
def Memory.ofBytes (bs : List Byte) : Memory := Memory.ofBytesFrom 0 bs

/-! ### Raising an error inside a pass -/

/-- `raise E(off)`: the error and its failing offset (00_scope.md R13). -/
structure Raise where
  error : DecodeError
  off : Nat
deriving DecidableEq, Repr

/-- `Take(n)` (00_scope.md R15) at `scan`: the comparison is on the remaining length. It answers the new SCAN; the
bytes taken are those from `scan` to it, which the field readers read in place. The subtraction is of naturals (log 14). -/
def take (len scan n : Nat) : Except Raise Nat :=
  if len - scan < n then .error ⟨.truncatedInput, scan⟩ else .ok (scan + n)

/-! ### The record output registers -/

/-- Writes the registers a message class gives (44_extended_header.md section 3): MSG_INFO and what CLASSIFY returns. -/
def RecRegs.latchClass (g : RecRegs) (b : Byte) (c : ClassOut) : RecRegs :=
  { g with msgInfo := some b, verbose := some c.verbose, mstp := some c.mstp, mtin := some c.mtin, mtype := some c.mtype }

/-- Writes the ten registers of the extended header at commit, or leaves them without value
(45_record_decoder.md R180, 10_state.md R27). -/
def RecRegs.latchExtended (g : RecRegs) : Option ExtendedHeader → RecRegs
  | none => g
  | some x =>
    { g with
      argCount := some x.argumentCount
      apidOff := some x.applicationId.off
      apidLen := some (BitVec.ofNat 3 x.applicationId.len)
      ctidOff := some x.contextId.off
      ctidLen := some (BitVec.ofNat 3 x.contextId.len) }.latchClass x.messageInfo (classify x.messageInfo)

/-- The record output registers that show a Record: every register is written, the ten of the extended header only
when there is one (R180). -/
def RecRegs.ofRecord (r : Record) : RecRegs :=
  { RecRegs.noValue with
    recValid := true
    shPattern := some r.storage.pattern
    tsSec := some r.storage.tsSec
    tsNsec := some r.storage.tsNsec
    senderOff := some r.storage.senderId.off
    senderLen := some (BitVec.ofNat 3 r.storage.senderId.len)
    flags := some r.standard.flags
    counter := some r.standard.counter
    totalLength := some r.standard.totalLength
    extPresent := some (flagUEH r.standard.flags)
    payOff := some r.payload.off
    payLen := some (BitVec.ofNat 16 r.payload.len) }.latchExtended r.extended

/-! ### The end of a pass -/

/-- COMMIT (45_record_decoder.md R180) and the STATUS after it (47_record_stream.md R225), as one transition. -/
def State.commit (s : State) (r : Record) (scan : Nat) : State :=
  { s with
    regs := RecRegs.ofRecord r
    out := s.out ++ [r]
    recIndex := s.recIndex + 1
    cur := scan
    status := if scan = s.len then .done else .ready }

/-- TAKING AN EXCEPTION: the error entry of 60_exceptions.md R250. It saves the record index and the failing offset,
takes the values out of the record output registers, and halts the run in ERROR; CUR stays at the failing record. -/
def State.raise (s : State) (e : Raise) : State :=
  { s with
    errCode := .err e.error
    errRec := some s.recIndex
    errOff := some e.off
    regs := RecRegs.noValue
    status := .error }

/-- The end of a pass: COMMIT or the error entry. -/
def State.endPass (s : State) : Except Raise (Record × Nat) → State
  | .ok (r, scan) => s.commit r scan
  | .error e => s.raise e

/-! ### The ways out of ERROR (60_exceptions.md R253) and into a run -/

/-- RESET (70_reset_and_hazards.md R280): the configuration stays. -/
def State.resetBlock (s : State) : State := State.resetOf s.cfg

/-- LOAD(b) (47_record_stream.md R223), for `b` short enough to be an operand. -/
def State.loadBuffer (s : State) (bs : List Byte) : State :=
  { State.resetOf s.cfg with
    mem := Memory.ofBytes bs
    len := bs.length
    status := if bs.length = 0 then .done else .ready }

end Sys2Proof.Machine
end

