-- ==== Sys2Proof/Machine/MessageClasses.lean ====
section
/-! DEFINITION. The meanings of the message classes (44_extended_header.md R150 to R162). A class is a sub-opcode: its
meaning is its share of a commit, the five registers MSG_INFO, VERBOSE, MSTP, MTIN and MTYPE. It raises nothing and
changes no other field. The block runs it inside a record with an extended header only (log 9). -/

namespace Sys2Proof.Machine

/-- The share of a commit that a message class decides: MSG_INFO holds the byte, VERBOSE, MSTP and MTIN its fields,
MTYPE the class's MessageType. -/
def State.outputClass (s : State) (mtin : BitVec 4) (mstp : BitVec 3) (verb : Bool) (t : MessageType) : State :=
  { s with regs := s.regs.latchClass (infoByte mtin mstp verb) ⟨verb, mstp, mtin, t⟩ }

/-- `MT.LOG.FATAL` (R150). -/
def execMtLogFatal (verb : Bool) (s : State) : Host.Outcome State Fault Refusal :=
  .next (s.outputClass 1#4 0#3 verb (.log .fatal))

/-- `MT.LOG.ERROR` (R151). -/
def execMtLogError (verb : Bool) (s : State) : Host.Outcome State Fault Refusal :=
  .next (s.outputClass 2#4 0#3 verb (.log .error))

/-- `MT.LOG.WARN` (R152). -/
def execMtLogWarn (verb : Bool) (s : State) : Host.Outcome State Fault Refusal :=
  .next (s.outputClass 3#4 0#3 verb (.log .warn))

/-- `MT.LOG.INFO` (R153). -/
def execMtLogInfo (verb : Bool) (s : State) : Host.Outcome State Fault Refusal :=
  .next (s.outputClass 4#4 0#3 verb (.log .info))

/-- `MT.LOG.DEBUG` (R154). -/
def execMtLogDebug (verb : Bool) (s : State) : Host.Outcome State Fault Refusal :=
  .next (s.outputClass 5#4 0#3 verb (.log .debug))

/-- `MT.LOG.VERBOSE` (R155). -/
def execMtLogVerbose (verb : Bool) (s : State) : Host.Outcome State Fault Refusal :=
  .next (s.outputClass 6#4 0#3 verb (.log .verbose))

/-- `MT.LOG.RSV0` (R156). -/
def execMtLogRsv0 (verb : Bool) (s : State) : Host.Outcome State Fault Refusal :=
  .next (s.outputClass 0#4 0#3 verb (.log .reserved))

/-- `MT.LOG.RSV7` (R157). -/
def execMtLogRsv7 (verb : Bool) (s : State) : Host.Outcome State Fault Refusal :=
  .next (s.outputClass 7#4 0#3 verb (.log .reserved))

/-- `MT.LOG.RSVHI` (R158). -/
def execMtLogRsvHi (mtin : BitVec 4) (verb : Bool) (s : State) : Host.Outcome State Fault Refusal :=
  .next (s.outputClass mtin 0#3 verb (.log .reserved))

/-- `MT.APPTRACE` (R159). -/
def execMtAppTrace (mtin : BitVec 4) (verb : Bool) (s : State) : Host.Outcome State Fault Refusal :=
  .next (s.outputClass mtin 1#3 verb .applicationTrace)

/-- `MT.NETTRACE` (R160). -/
def execMtNetTrace (mtin : BitVec 4) (verb : Bool) (s : State) : Host.Outcome State Fault Refusal :=
  .next (s.outputClass mtin 2#3 verb .networkTrace)

/-- `MT.CONTROL` (R161). -/
def execMtControl (mtin : BitVec 4) (verb : Bool) (s : State) : Host.Outcome State Fault Refusal :=
  .next (s.outputClass mtin 3#3 verb .control)

/-- `MT.RSV` (R162). -/
def execMtRsv (mtin : BitVec 4) (mstp : BitVec 3) (verb : Bool) (s : State) : Host.Outcome State Fault Refusal :=
  .next (s.outputClass mtin mstp verb .reserved)

end Sys2Proof.Machine
end

