-- ==== Sys2Proof/Machine/Operands.lean ====
section
/-! DEFINITION. How the operands of a record are assembled from its bytes: the field readers (00_scope.md R14),
NULLTRIM and TRIMVIEW (40_nulltrim_text.md R100, R101) and TIMESTAMP (41_storage_header.md R113, R115). -/

namespace Sys2Proof.Machine

/-- `LE32u(s)`: `b0` is the least significant byte (00_scope.md R14). -/
def le32u (s : Bytes4) : BitVec 32 := s.b3 ++ s.b2 ++ s.b1 ++ s.b0

/-- `LE32s(s) = sext_32(LE32u(s))`: a 32-bit two's-complement number (R14). -/
def le32s (s : Bytes4) : BitVec 32 := (le32u s).signExtend 32

/-- The `k` of NULLTRIM (40_nulltrim_text.md R100): 1 + the index of the last byte that is not zero, or 0. -/
def lastNonZero : List Byte → Nat
  | [] => 0
  | b :: bs =>
    match lastNonZero bs with
    | 0 => if b = 0#8 then 0 else 1
    | k + 1 => k + 2

/-- `NULLTRIM(f)` (R100): without its trailing zero bytes, but unchanged when all bytes are zero. -/
def nullTrim (f : List Byte) : List Byte :=
  match lastNonZero f with
  | 0 => f
  | k + 1 => f.take (k + 1)

/-- `TRIMVIEW(o)` (R101): the view of the trimmed identifier in the four-byte slot at `o`. -/
def trimView (m : Memory) (o : Nat) : View := ⟨o, (nullTrim (m.read4 o).toList).length⟩

/-- `TIMESTAMP(seconds, micros)` (41_storage_header.md R113). For a negative field the values are the open parameter
`NEG_USEC` (R115; log 3); for any other the sum does not wrap. -/
def timestamp (seconds micros : BitVec 32) : BitVec 64 × BitVec 30 :=
  if micros.msb then Config.negUsec seconds micros
  else
    (BitVec.ofNat 64 (seconds.toNat + micros.toNat / Config.usecPerSec),
      BitVec.ofNat 30 (micros.toNat % Config.usecPerSec * Config.nsecPerUsec))

end Sys2Proof.Machine
end

