-- ==== Sys2Proof/Machine/Stages.lean ====
section
/-! DEFINITION. The stages of a decode pass and the pass (45_record_decoder.md R170). Each stage answers its values
and the new SCAN, or the error it raises. A pass is a function of the configuration, the buffer, LEN and the record's
start alone (R181): none of its working values is state (10_state.md R21). -/

namespace Sys2Proof.Machine

/-- STORHDR (41_storage_header.md R110): one check for all 16 bytes, the pattern returned raw. -/
def storHdr (m : Memory) (len start : Nat) : Except Raise (StorageHeader × Nat) := do
  let scan ← take len start Config.storageLen
  let ts := timestamp (le32u (m.read4 (start + 4))) (le32s (m.read4 (start + 8)))
  pure (⟨m.read4 start, ts.1, ts.2, trimView m (start + 12)⟩, scan)

/-- CHKMAGIC (45_record_decoder.md R171). -/
def chkMagic (c : Config) (pattern : Bytes4) (start : Nat) : Except Raise Unit :=
  if pattern = c.magic then .ok () else .error ⟨.invalidMagic, start⟩

/-- STDHDR (42_standard_header.md R120), as far as it can fail: its four bytes are taken, nothing is validated. The
values themselves are the instruction's operands. -/
def stdHdr (len scan : Nat) : Except Raise Nat := take len scan Config.standardLen

/-- CHKORDER (45_record_decoder.md R173): the flags byte stands at record offset 16. -/
def chkOrder (flags : Byte) (start : Nat) : Except Raise Unit :=
  if flagMSBF flags then .error ⟨.unsupportedByteOrder, start + 16⟩ else .ok ()

/-- SKIPEXT (43_extension_skipper.md R130, R131): one Take for all the extension fields. -/
def skipExt (flags : Byte) (len scan : Nat) : Except Raise Nat := take len scan (Config.extFieldLen * nExt flags)

/-- EXTHDR (44_extended_header.md R140): ten bytes when flags bit 0 is set, nothing otherwise. CLASSIFY of its first
byte is derived at commit (`RecRegs.latchExtended`). -/
def extHdr (flags : Byte) (m : Memory) (len scan : Nat) : Except Raise (Option ExtendedHeader × Nat) :=
  if flagUEH flags then do
    let scan' ← take len scan Config.extendedLen
    pure (some ⟨m.read scan, m.read (scan + 1), trimView m (scan + 2), trimView m (scan + 6)⟩, scan')
  else pure (none, scan)

/-- SKIPRSV (45_record_decoder.md R175): in every form. -/
def skipRsv (len scan : Nat) : Except Raise Nat := take len scan Config.reservedLen

/-- PAYLEN (45_record_decoder.md R176, R177), over the integers: CONSUMED counts from the start of the whole record. -/
def payLen (totalLength : BitVec 16) (start scan : Nat) : Int :=
  (totalLength.toNat : Int) - ((scan : Int) - (start : Int)) + Config.baseComp

/-- PAYSLICE (45_record_decoder.md R178): a length that is negative or exceeds what remains is out of range. -/
def paySlice (n : Int) (len scan : Nat) : Except Raise (View × Nat) :=
  if n < 0 ∨ n > (len : Int) - (scan : Int) then .error ⟨.payloadLengthOutOfRange, scan⟩
  else .ok (⟨scan, n.toNat⟩, scan + n.toNat)

/-- Stages 1 to 3: the storage header, its pattern, and the check that the standard header is there. -/
def headStages (c : Config) (m : Memory) (len start : Nat) : Except Raise (StorageHeader × Nat) := do
  let (storage, scan) ← storHdr m len start
  chkMagic c storage.pattern start
  let scan ← stdHdr len scan
  pure (storage, scan)

/-- Stages 4 to 9, from the standard header's values on: the Record, and SCAN after its payload. -/
def bodyStages (m : Memory) (len start : Nat) (storage : StorageHeader) (std : StandardHeader) (scan : Nat) :
    Except Raise (Record × Nat) := do
  chkOrder std.flags start
  let scan ← skipExt std.flags len scan
  let (extended, scan) ← extHdr std.flags m len scan
  let scan ← skipRsv len scan
  let (payload, scan) ← paySlice (payLen std.totalLength start scan) len scan
  pure (⟨storage, std, extended, payload⟩, scan)

/-- The pass for a record whose standard header is already decoded: R170, stages 1 to 9. -/
def decodePass (c : Config) (m : Memory) (len start : Nat) (flags ctr : Byte) (totalLength : BitVec 16) :
    Except Raise (Record × Nat) := do
  let (storage, scan) ← headStages c m len start
  bodyStages m len start storage ⟨flags, ctr, totalLength⟩ scan

/-- DECODE_NEXT as a function (45_record_decoder.md R170, R181): stages 1 to 9, with the standard header's values read
from the buffer once stage 3 has taken them (42_standard_header.md R120). -/
def decodeNext (c : Config) (m : Memory) (len start : Nat) : Except Raise (Record × Nat) := do
  let (storage, scan) ← headStages c m len start
  bodyStages m len start storage
    ⟨m.read (start + 16), m.read (start + 17), be16u (m.read (start + 18)) (m.read (start + 19))⟩ scan

/-- The bytes of the instruction word at CUR: the standard header of the record there, or none where the record's first
20 bytes are not all in the buffer. -/
def State.fetchWord (s : State) : List Byte :=
  if s.len - s.cur < Config.storageLen + Config.standardLen then []
  else s.mem.readBytes (s.cur + Config.storageLen) Config.standardLen

end Sys2Proof.Machine
end

