-- ==== Sys2Proof/Machine/RecordForms.lean ====
section
/-! DEFINITION. The meanings of the record forms (46_record_forms.md R200 to R216): each is the one pass of
45_record_decoder.md R170 with the flags byte its row selects. There is one decode path (47_record_stream.md R222). -/

namespace Sys2Proof.Machine

/-- A record form's word at CUR: the ten-stage pass with these standard header values, and its end: COMMIT or the
error entry. -/
def State.runRecord (s : State) (flags ctr : Byte) (len : BitVec 16) : State :=
  s.endPass (decodePass s.cfg s.mem s.len s.cur flags ctr len)

/-- `REC` (46_record_forms.md R200). -/
def execRecBase (ign : BitVec 3) (ctr : Byte) (len : BitVec 16) (s : State) : Host.Outcome State Fault Refusal :=
  .next (s.runRecord (flagsByte ign 0x00#5) ctr len)

/-- `REC.X` (46_record_forms.md R201). -/
def execRecX (ign : BitVec 3) (ctr : Byte) (len : BitVec 16) (s : State) : Host.Outcome State Fault Refusal :=
  .next (s.runRecord (flagsByte ign 0x01#5) ctr len)

/-- `REC.E` (46_record_forms.md R202). -/
def execRecE (ign : BitVec 3) (ctr : Byte) (len : BitVec 16) (s : State) : Host.Outcome State Fault Refusal :=
  .next (s.runRecord (flagsByte ign 0x04#5) ctr len)

/-- `REC.XE` (46_record_forms.md R203). -/
def execRecXE (ign : BitVec 3) (ctr : Byte) (len : BitVec 16) (s : State) : Host.Outcome State Fault Refusal :=
  .next (s.runRecord (flagsByte ign 0x05#5) ctr len)

/-- `REC.S` (46_record_forms.md R204). -/
def execRecS (ign : BitVec 3) (ctr : Byte) (len : BitVec 16) (s : State) : Host.Outcome State Fault Refusal :=
  .next (s.runRecord (flagsByte ign 0x08#5) ctr len)

/-- `REC.XS` (46_record_forms.md R205). -/
def execRecXS (ign : BitVec 3) (ctr : Byte) (len : BitVec 16) (s : State) : Host.Outcome State Fault Refusal :=
  .next (s.runRecord (flagsByte ign 0x09#5) ctr len)

/-- `REC.ES` (46_record_forms.md R206). -/
def execRecES (ign : BitVec 3) (ctr : Byte) (len : BitVec 16) (s : State) : Host.Outcome State Fault Refusal :=
  .next (s.runRecord (flagsByte ign 0x0C#5) ctr len)

/-- `REC.XES` (46_record_forms.md R207). -/
def execRecXES (ign : BitVec 3) (ctr : Byte) (len : BitVec 16) (s : State) : Host.Outcome State Fault Refusal :=
  .next (s.runRecord (flagsByte ign 0x0D#5) ctr len)

/-- `REC.T` (46_record_forms.md R208). -/
def execRecT (ign : BitVec 3) (ctr : Byte) (len : BitVec 16) (s : State) : Host.Outcome State Fault Refusal :=
  .next (s.runRecord (flagsByte ign 0x10#5) ctr len)

/-- `REC.XT` (46_record_forms.md R209). -/
def execRecXT (ign : BitVec 3) (ctr : Byte) (len : BitVec 16) (s : State) : Host.Outcome State Fault Refusal :=
  .next (s.runRecord (flagsByte ign 0x11#5) ctr len)

/-- `REC.ET` (46_record_forms.md R210). -/
def execRecET (ign : BitVec 3) (ctr : Byte) (len : BitVec 16) (s : State) : Host.Outcome State Fault Refusal :=
  .next (s.runRecord (flagsByte ign 0x14#5) ctr len)

/-- `REC.XET` (46_record_forms.md R211). -/
def execRecXET (ign : BitVec 3) (ctr : Byte) (len : BitVec 16) (s : State) : Host.Outcome State Fault Refusal :=
  .next (s.runRecord (flagsByte ign 0x15#5) ctr len)

/-- `REC.ST` (46_record_forms.md R212). -/
def execRecST (ign : BitVec 3) (ctr : Byte) (len : BitVec 16) (s : State) : Host.Outcome State Fault Refusal :=
  .next (s.runRecord (flagsByte ign 0x18#5) ctr len)

/-- `REC.XST` (46_record_forms.md R213). -/
def execRecXST (ign : BitVec 3) (ctr : Byte) (len : BitVec 16) (s : State) : Host.Outcome State Fault Refusal :=
  .next (s.runRecord (flagsByte ign 0x19#5) ctr len)

/-- `REC.EST` (46_record_forms.md R214). -/
def execRecEST (ign : BitVec 3) (ctr : Byte) (len : BitVec 16) (s : State) : Host.Outcome State Fault Refusal :=
  .next (s.runRecord (flagsByte ign 0x1C#5) ctr len)

/-- `REC.XEST` (46_record_forms.md R215). -/
def execRecXEST (ign : BitVec 3) (ctr : Byte) (len : BitVec 16) (s : State) : Host.Outcome State Fault Refusal :=
  .next (s.runRecord (flagsByte ign 0x1D#5) ctr len)

/-- `REC.MSBF`, the illegal form (R216): its flags byte makes CHKORDER raise UnsupportedByteOrder. -/
def execRecMSBF (flags ctr : Byte) (len : BitVec 16) (s : State) : Host.Outcome State Fault Refusal :=
  .next (s.runRecord flags ctr len)

end Sys2Proof.Machine
end

