-- ==== Sys2Proof/Machine/Dispatch.lean ====
section
/-! DEFINITION. exec: one arm per instruction, each one call of its meaning. -/

namespace Sys2Proof.Machine

def exec (i : Instr) (s : State) : Host.Outcome State Fault Refusal :=
  match i with
  -- the record forms, on the flags byte
  | .recBase ign ctr len => Sys2Proof.Machine.execRecBase ign ctr len s
  | .recX ign ctr len => Sys2Proof.Machine.execRecX ign ctr len s
  | .recE ign ctr len => Sys2Proof.Machine.execRecE ign ctr len s
  | .recXE ign ctr len => Sys2Proof.Machine.execRecXE ign ctr len s
  | .recS ign ctr len => Sys2Proof.Machine.execRecS ign ctr len s
  | .recXS ign ctr len => Sys2Proof.Machine.execRecXS ign ctr len s
  | .recES ign ctr len => Sys2Proof.Machine.execRecES ign ctr len s
  | .recXES ign ctr len => Sys2Proof.Machine.execRecXES ign ctr len s
  | .recT ign ctr len => Sys2Proof.Machine.execRecT ign ctr len s
  | .recXT ign ctr len => Sys2Proof.Machine.execRecXT ign ctr len s
  | .recET ign ctr len => Sys2Proof.Machine.execRecET ign ctr len s
  | .recXET ign ctr len => Sys2Proof.Machine.execRecXET ign ctr len s
  | .recST ign ctr len => Sys2Proof.Machine.execRecST ign ctr len s
  | .recXST ign ctr len => Sys2Proof.Machine.execRecXST ign ctr len s
  | .recEST ign ctr len => Sys2Proof.Machine.execRecEST ign ctr len s
  | .recXEST ign ctr len => Sys2Proof.Machine.execRecXEST ign ctr len s
  | .recMSBF flags ctr len => Sys2Proof.Machine.execRecMSBF flags ctr len s
  -- the message classes, on the message_info byte
  | .mtLogFatal verb => Sys2Proof.Machine.execMtLogFatal verb s
  | .mtLogError verb => Sys2Proof.Machine.execMtLogError verb s
  | .mtLogWarn verb => Sys2Proof.Machine.execMtLogWarn verb s
  | .mtLogInfo verb => Sys2Proof.Machine.execMtLogInfo verb s
  | .mtLogDebug verb => Sys2Proof.Machine.execMtLogDebug verb s
  | .mtLogVerbose verb => Sys2Proof.Machine.execMtLogVerbose verb s
  | .mtLogRsv0 verb => Sys2Proof.Machine.execMtLogRsv0 verb s
  | .mtLogRsv7 verb => Sys2Proof.Machine.execMtLogRsv7 verb s
  | .mtLogRsvHi mtin verb => Sys2Proof.Machine.execMtLogRsvHi mtin verb s
  | .mtAppTrace mtin verb => Sys2Proof.Machine.execMtAppTrace mtin verb s
  | .mtNetTrace mtin verb => Sys2Proof.Machine.execMtNetTrace mtin verb s
  | .mtControl mtin verb => Sys2Proof.Machine.execMtControl mtin verb s
  | .mtRsv mtin mstp verb => Sys2Proof.Machine.execMtRsv mtin mstp verb s

end Sys2Proof.Machine
end

