-- ==== Sys2Proof/Machine/Fetch.lean ====
section
/-! DEFINITION. What the step needs around an instruction: the end of a pass that selects no form, and a record laid
out around an instruction word. -/

namespace Sys2Proof.Machine

/-- The end of a pass at CUR whose standard header is not all in the buffer: DECODE_NEXT, which then raises in stage 1,
2 or 3 and looks at no flags byte. -/
def State.endUnselected (s : State) : State := s.endPass (decodeNext s.cfg s.mem s.len s.cur)

/-- The configuration the spec's test vectors use: `MAGIC = 44 4C 54 01`, with 32-bit offsets. PRESUMED from the
vectors (95_test_vectors.md, conventions; 93_implementation_defined.md G1): an example, used by no meaning (log 7). -/
def vectorConfig : Config := { magic := ⟨0x44#8, 0x4C#8, 0x54#8, 0x01#8⟩, aw := 32 }

/-- A record around an instruction word: the pattern, zeros for the rest of the storage header, the word, and zeros
up to the longest header, 48 bytes (30_encoding.md R70, R71). -/
def wordRecord (nbits w : Nat) : List Byte :=
  vectorConfig.magic.toList ++ List.replicate 12 0#8 ++ tableWordBytes nbits w ++ List.replicate 28 0#8

end Sys2Proof.Machine
end

