-- ==== Sys2Proof/Machine/Step.lean ====
section
/-! DEFINITION. One step of the machine: the command NEXT (47_record_stream.md R224). -/

namespace Sys2Proof.Machine

/-- NEXT (R224). Outside READY it changes nothing. In READY one pass runs: the instruction word at CUR is fetched and
decoded, and its meaning is the pass. Where the word is not all in the buffer no form is selected, and the pass
DECODE_NEXT ends in its first three stages (60_exceptions.md R246, lines 1 to 3). -/
def step (s : State) : Host.Outcome State Fault Refusal :=
  match s.status with
  | .ready =>
    match decode .flags s.fetchWord with
    | .ok (i, _) => exec i s
    | .error _ => .next s.endUnselected
  | .idle => .next s
  | .done => .next s
  | .error => .next s

/-- `s` after the host's start-up duties (70_reset_and_hazards.md R285) for one record whose standard header is the word
`w`: the configuration is fixed to that of the spec's own test vectors, and a record with that word is LOADed (log 7). -/
def State.withFetchWord (s : State) (nbits w : Nat) : State :=
  State.loadBuffer { s with cfg := vectorConfig } (wordRecord nbits w)

end Sys2Proof.Machine
end

