-- ==== Sys2Proof/Machine/Assembler.lean ====
section
/-! DEFINITION. The record notation and its pseudo-forms (30_encoding.md R86, R87), as abstract lines: the second
encoder, of whole records. It has no weight beyond the bytes it stands for (92_eei_decisions.md D21; log 15). -/

namespace Sys2Proof.Machine

/-- The mnemonic of a line: one of the 16 legal forms by its letters X, E, S, T, or `REC.MSBF` (R76, R86). -/
inductive LineForm where
  | legal (x e s t : Bool)
  | msbf
deriving DecidableEq, Repr

/-- An `<id>` (R86): four hex bytes, or a quoted string of 0 to 4 ASCII characters, given by their codes. -/
inductive IdText where
  | hex (s : Bytes4)
  | quoted (cs : List Byte)
deriving DecidableEq, Repr

/-- The value of `msin=` (R86, R87): a byte, or a class with or without `+V`, by its place in `classRows`. -/
inductive Msin where
  | byte (b : Byte)
  | cls (row : Fin 13) (verbose : Bool)
deriving DecidableEq, Repr

/-- The group `msin noar apid ctid` (R86). -/
structure ExtGroup where
  msin : Msin
  noar : Byte
  apid : IdText
  ctid : IdText
deriving DecidableEq, Repr

/-- One line of the notation (R86). `len` is `none` for `auto`; `magic`, `flags` and `rsv` are `none` when omitted. -/
structure RecordLine where
  form : LineForm
  magic : Option Bytes4
  sec : BitVec 32
  usec : BitVec 32
  ecu : IdText
  flags : Option Byte
  ctr : Byte
  len : Option (BitVec 16)
  eid : Option Bytes4
  sid : Option Bytes4
  tms : Option Bytes4
  ext : Option ExtGroup
  rsv : Option (Bytes4 × Byte × Byte)
  pay : List Byte
deriving DecidableEq, Repr

/-- Why a line stands for no bytes. -/
inductive LineReject where
  /-- A quoted identifier of more than four characters, or with one that is not ASCII. -/
  | badIdentifier
  /-- An optional field is given whose letter the mnemonic lacks, or the other way round. -/
  | fieldsDisagree
  /-- `len=auto` for `REC.MSBF`, whose header has no length (R76). -/
  | autoOfMsbf
  /-- `len=auto` for a payload that total_length cannot count. -/
  | payloadTooLong
deriving DecidableEq, Repr

/-- The flags byte of a mnemonic: the `match` value of its row (R76). -/
def LineForm.flags : LineForm → Byte
  | .legal x e s t =>
    flagsByte 0#3 (BitVec.ofBool t ++ BitVec.ofBool s ++ BitVec.ofBool e ++ 0#1 ++ BitVec.ofBool x)
  | .msbf => 0x02#8

/-- The four bytes of an `<id>`: a string is padded on the right with `00` (R86). -/
def IdText.slot : IdText → Except LineReject Bytes4
  | .hex s => .ok s
  | .quoted cs =>
    if cs.any (fun c => c.getLsbD 7) then .error .badIdentifier
    else
      match cs with
      | [] => .ok ⟨0#8, 0#8, 0#8, 0#8⟩
      | [a] => .ok ⟨a, 0#8, 0#8, 0#8⟩
      | [a, b] => .ok ⟨a, b, 0#8, 0#8⟩
      | [a, b, c] => .ok ⟨a, b, c, 0#8⟩
      | [a, b, c, d] => .ok ⟨a, b, c, d⟩
      | _ => .error .badIdentifier

/-- The byte of `msin=`: a class stands for its row's `match` value, plus 1 for `+V` (R87). -/
def Msin.value : Msin → Byte
  | .byte b => b
  | .cls row v => (classRows.get row).pattern + BitVec.ofNat 8 v.toNat

/-- The four bytes of a number, least significant first. -/
def le32Bytes (v : BitVec 32) : List Byte :=
  [v.extractLsb' 0 8, v.extractLsb' 8 8, v.extractLsb' 16 8, v.extractLsb' 24 8]

/-- The optional fields are given exactly when the mnemonic has their letters (R86). -/
def RecordLine.fieldsAgree (l : RecordLine) : Bool :=
  match l.form with
  | .legal x e s t => l.eid.isSome == e && l.sid.isSome == s && l.tms.isSome == t && l.ext.isSome == x
  | .msbf => l.eid.isNone && l.sid.isNone && l.tms.isNone && l.ext.isNone

/-- total_length: as given, or for `auto` `(H - 16) + |pay|` with `H` from the mnemonic (R87). -/
def RecordLine.totalLength (l : RecordLine) : Except LineReject (BitVec 16) :=
  match l.len, l.form with
  | some n, _ => .ok n
  | none, .msbf => .error .autoOfMsbf
  | none, .legal x e s t =>
    let n := headerLen (LineForm.legal x e s t).flags - 16 + l.pay.length
    if n < 2 ^ 16 then .ok (BitVec.ofNat 16 n) else .error .payloadTooLong

/-- The bytes of an optional four-byte field. -/
def optBytes : Option Bytes4 → List Byte
  | none => []
  | some s => s.toList

/-- The bytes of the reserved field: as given, or six zeros (R86). -/
def rsvBytes : Option (Bytes4 × Byte × Byte) → List Byte
  | none => List.replicate 6 0#8
  | some (s, a, b) => s.toList ++ [a, b]

/-- The bytes of the extended header group. -/
def extBytes : Option ExtGroup → Except LineReject (List Byte)
  | none => .ok []
  | some g => do
    let apid ← g.apid.slot
    let ctid ← g.ctid.slot
    pure (g.msin.value :: g.noar :: (apid.toList ++ ctid.toList))

/-- The bytes of a line, in the order of the record format (30_encoding.md R71), for an instance whose pattern is
`magic`. -/
def RecordLine.assemble (magic : Bytes4) (l : RecordLine) : Except LineReject (List Byte) :=
  if l.fieldsAgree then do
    let ecu ← l.ecu.slot
    let len ← l.totalLength
    let ext ← extBytes l.ext
    pure ((l.magic.getD magic).toList ++ le32Bytes l.sec ++ le32Bytes l.usec ++ ecu.toList
      ++ (l.flags.getD l.form.flags :: headerTail l.ctr len)
      ++ optBytes l.eid ++ optBytes l.sid ++ optBytes l.tms ++ ext ++ rsvBytes l.rsv ++ l.pay)
  else .error .fieldsDisagree

/-- A program: the bytes of its lines in order, with nothing between them (R87). -/
def assembleAll (magic : Bytes4) : List RecordLine → Except LineReject (List Byte)
  | [] => .ok []
  | l :: ls => do
    let b ← l.assemble magic
    let bs ← assembleAll magic ls
    pure (b ++ bs)

end Sys2Proof.Machine
end

