-- ==== Sys2Proof/Machine/Commands.lean ====
section
/-! DEFINITION. The host's commands (47_record_stream.md, 70_reset_and_hazards.md R280) and RUN. How a command is
signalled is open and has no effect (92_eei_decisions.md D10; log 7). Each is one transition: none is in progress in a
state (70_reset_and_hazards.md R293; log 13). -/

namespace Sys2Proof.Machine

/-- The three commands: the whole system interface (47_record_stream.md R230). -/
inductive Command where
  | reset
  | load (bs : List Byte)
  | next
deriving DecidableEq, Repr

/-- LOAD(b) (R223), in every STATUS. Its operand satisfies `|b| < 2^AW`; a longer byte string is refused. -/
def State.load (s : State) (bs : List Byte) : Host.Outcome State Fault Refusal :=
  if bs.length < 2 ^ s.cfg.aw then .next (s.loadBuffer bs) else .refused (.bufferTooLong bs.length)

/-- What a command does (R226). -/
def hostCommand : Command → State → Host.Outcome State Fault Refusal
  | .reset, s => .next s.resetBlock
  | .load bs, s => s.load bs
  | .next, s => step s

/-- The smallest record: 26 bytes (30_encoding.md R70). -/
def minRecord : Nat := 26

/-- At most `fuel` times NEXT, while STATUS is READY. -/
def runFor : Nat → State → Host.Outcome State Fault Refusal
  | 0, s => .next s
  | fuel + 1, s =>
    if s.status = .ready then
      match step s with
      | .next t => runFor fuel t
      | .fault r => .fault r
      | .refused r => .refused r
    else .next s

/-- RUN (R227): NEXT until STATUS is not READY. At most `LEN div 26` passes commit, and one more can raise (log 16). -/
def run (s : State) : Host.Outcome State Fault Refusal := runFor (s.len / minRecord + 1) s

end Sys2Proof.Machine
end

