-- ==== Sys2Proof/Machine/HostRead.lean ====
section
/-! DEFINITION. What the host reads between commands: the registers (10_state.md R26, R31), the loaded buffer by offset
(20_memory.md R50, R61), the bytes of a view (00_scope.md R11) and the text of an identifier (40_nulltrim_text.md R104,
R105). Reading changes nothing. -/

namespace Sys2Proof.Machine

/-- What a register holds, as the host sees it. A register of bits is given as its unsigned number. -/
inductive RegValue where
  | number (n : Nat)
  | bytes (s : Bytes4)
  | messageType (t : MessageType)
deriving DecidableEq, Repr

/-- The code of `STATUS` (10_state.md R31). -/
def Status.code : Status → BitVec 2
  | .idle => 0#2
  | .ready => 1#2
  | .done => 2#2
  | .error => 3#2

/-- The code of a decode error (60_exceptions.md R240). -/
def DecodeError.code : DecodeError → BitVec 3
  | .truncatedInput => 1#3
  | .invalidMagic => 2#3
  | .unsupportedByteOrder => 3#3
  | .payloadLengthOutOfRange => 4#3

/-- The code of `ERR_CODE` (R240): 0 is no error. -/
def ErrCode.code : ErrCode → BitVec 3
  | .noError => 0#3
  | .err e => e.code

/-- A register that may hold no value. -/
def heldBits {w : Nat} : Option (BitVec w) → Option RegValue := Option.map fun v => .number v.toNat

/-- A one-bit register that may hold no value. -/
def heldBit : Option Bool → Option RegValue := Option.map fun v => .number v.toNat

/-- An offset register that may hold no value. -/
def heldOffset : Option Nat → Option RegValue := Option.map .number

/-- What a register holds, `none` for no value (10_state.md R27). -/
def State.regValue (s : State) : Reg → Option RegValue
  | .recValid => some (.number s.regs.recValid.toNat)
  | .shPattern => s.regs.shPattern.map .bytes
  | .tsSec => heldBits s.regs.tsSec
  | .tsNsec => heldBits s.regs.tsNsec
  | .senderOff => heldOffset s.regs.senderOff
  | .senderLen => heldBits s.regs.senderLen
  | .flags => heldBits s.regs.flags
  | .counter => heldBits s.regs.counter
  | .totalLength => heldBits s.regs.totalLength
  | .extPresent => heldBit s.regs.extPresent
  | .msgInfo => heldBits s.regs.msgInfo
  | .argCount => heldBits s.regs.argCount
  | .apidOff => heldOffset s.regs.apidOff
  | .apidLen => heldBits s.regs.apidLen
  | .ctidOff => heldOffset s.regs.ctidOff
  | .ctidLen => heldBits s.regs.ctidLen
  | .verbose => heldBit s.regs.verbose
  | .mstp => heldBits s.regs.mstp
  | .mtin => heldBits s.regs.mtin
  | .mtype => s.regs.mtype.map .messageType
  | .payOff => heldOffset s.regs.payOff
  | .payLen => heldBits s.regs.payLen
  | .len => some (.number s.len)
  | .cur => some (.number s.cur)
  | .recIndex => some (.number s.recIndex)
  | .status => some (.number s.status.code.toNat)
  | .errCode => some (.number s.errCode.code.toNat)
  | .errRec => heldOffset s.errRec
  | .errOff => heldOffset s.errOff

/-- The host's read of a register. One that holds no value is refused (93_implementation_defined.md U16; log 11). -/
def State.readReg (s : State) (r : Reg) : Except Refusal RegValue :=
  match s.regValue r with
  | some v => .ok v
  | none => .error (.noValue r)

/-! ### The loaded buffer, by offset -/

/-- The host's read of the `n` bytes at offset `a` of the loaded buffer, as a field that `f` assembles from the buffer at
an offset. The buffer is the host's own (20_memory.md R50), so this read needs no Record; there is no byte at or above
LEN, and a read of one faults (log 13). -/
def State.readField {α : Type} (s : State) (a n : Nat) (f : Memory → Nat → α) : Except Fault α :=
  if a + n ≤ s.len then .ok (f s.mem a) else .error (.viewOutsideBuffer ⟨a, n⟩)

/-- `BUF[a .. a+n)` (00_scope.md R11), in buffer order (20_memory.md R59). -/
def State.readBuf (s : State) (a n : Nat) : Except Fault (List Byte) := s.readField a n fun m a => m.readBytes a n

/-- The raw seconds field of the record at `start`, which is no output: the host reads it at `START + 4`
(41_storage_header.md R111). -/
def State.rawSeconds (s : State) (start : Nat) : Except Fault (BitVec 32) :=
  s.readField (start + 4) 4 fun m a => le32u (m.read4 a)

/-- The raw microseconds field, which is no output: the host reads it at `START + 8` (R111). -/
def State.rawMicros (s : State) (start : Nat) : Except Fault (BitVec 32) :=
  s.readField (start + 8) 4 fun m a => le32s (m.read4 a)

/-- The offending pattern of an InvalidMagic: the host reads it from the buffer at ERR_OFF (60_exceptions.md R242). Without
an error ERR_OFF holds no value, and its read is refused. -/
def State.offendingPattern (s : State) : Except (Fault ⊕ Refusal) Bytes4 :=
  match s.errOff with
  | some off => (s.readField off 4 Memory.read4).mapError .inl
  | none => .error (.inr (.noValue .errOff))

/-- PAYLEN of the record at `start`, as the host computes it again from the flags at `START + 16` and the total_length at
`START + 18` (60_exceptions.md R244). -/
def State.payLenAt (s : State) (start : Nat) : Except Fault Int :=
  s.readField (start + 16) 4 fun m a =>
    payLen (be16u (m.read (a + 2)) (m.read (a + 3))) start (start + headerLen (m.read a))

/-- The optional extension fields, in the order they stand in (30_encoding.md R71). -/
inductive ExtensionField where
  | senderId
  | sessionId
  | timestamp
deriving DecidableEq, Repr

/-- The record offset of an extension field by the flags byte, `none` where it is absent: a consumer that wants its four
bytes computes it so, and reads the buffer there; the block gives no view of them (30_encoding.md R71, R83). -/
def ExtensionField.offset (f : Byte) : ExtensionField → Option Nat
  | .senderId => if flagWEID f then some 20 else none
  | .sessionId => if flagWSID f then some (20 + 4 * (flagWEID f).toNat) else none
  | .timestamp => if flagWTMS f then some (20 + 4 * ((flagWEID f).toNat + (flagWSID f).toNat)) else none

/-! ### Views -/

/-- The views of a Record (10_state.md R25): the sender id, the payload, and the two identifiers of an extended header. -/
def Record.views (r : Record) : List View :=
  r.storage.senderId :: r.payload ::
    match r.extended with
    | some x => [x.applicationId, x.contextId]
    | none => []

/-- The views that are valid: those of the Records emitted from the loaded buffer, which are the Records of OUT since the
last LOAD (70_reset_and_hazards.md R290; 10_state.md R34). -/
def State.validViews (s : State) : List View := s.out.flatMap Record.views

/-- The host's read of the bytes of a view, `bytes(v)` (00_scope.md R11). A view outside the loaded buffer faults; any
other view that is not valid is refused: LOAD and RESET end the validity of all earlier views (70_reset_and_hazards.md
R290, 93_implementation_defined.md U8; log 13). -/
def State.readView (s : State) (v : View) : Except (Fault ⊕ Refusal) (List Byte) :=
  match s.readBuf v.off v.len with
  | .error e => .error (.inl e)
  | .ok bs => if v ∈ s.validViews then .ok bs else .error (.inr (.staleView v))

/-- `LOSSYTEXT(t)` (40_nulltrim_text.md R104). -/
def lossyText (t : List Byte) : String := Config.lossyText t

/-- The text of an identifier, computed from its view (R105): `LOSSYTEXT(bytes(view))`. -/
def State.identifierText (s : State) (v : View) : Except (Fault ⊕ Refusal) String :=
  match s.readView v with
  | .ok bs => .ok (lossyText bs)
  | .error e => .error e

end Sys2Proof.Machine
end

