-- ==== Sys2Proof/Safety.lean ====
section
/-! DEFINITION. What counts as a good state of a run: the invariants 10_state.md and 60_exceptions.md give. -/

namespace Sys2Proof.Machine

/-- The records `rs` are, one after the other, what DECODE_NEXT commits from offset `a` on, and the last ends at `b`:
strictly in buffer order, each where the one before it ended (47_record_stream.md R220). -/
def DecodesTo (c : Config) (m : Memory) (len : Nat) : Nat → List Record → Nat → Prop
  | a, [], b => a = b
  | a, r :: rs, b => ∃ a', decodeNext c m len a = .ok (r, a') ∧ DecodesTo c m len a' rs b

/-- What the record output registers show: the newest element of OUT, or no value before the first commit of a run and
after an error (10_state.md R27, R34; 70_reset_and_hazards.md R292). -/
def State.window (s : State) : RecRegs :=
  match s.status, s.out.getLast? with
  | .error, _ => RecRegs.noValue
  | _, some r => RecRegs.ofRecord r
  | _, none => RecRegs.noValue

/-- The invariant of a run. -/
structure State.Inv (s : State) : Prop where
  /-- The configuration is one an instance can have (92_eei_decisions.md, OPEN parameters). -/
  aw_pos : 0 < s.cfg.aw
  /-- `LEN < 2^AW` (10_state.md R31). -/
  len_lt : s.len < 2 ^ s.cfg.aw
  /-- The buffer is in its canonical form (log 6). -/
  mem_wf : s.mem.wf = true
  /-- The buffer has no byte at or above LEN (20_memory.md R50). -/
  mem_below : s.mem.below s.len = true
  /-- `CUR <= LEN` (10_state.md R22). -/
  cur_le : s.cur ≤ s.len
  /-- `|OUT| = REC_INDEX` (10_state.md R34). -/
  out_length : s.out.length = s.recIndex
  /-- OUT is the decode of `BUF[0 .. CUR)` (60_exceptions.md R251). -/
  out_decodes : DecodesTo s.cfg s.mem s.len 0 s.out s.cur
  /-- The output registers show the last element of OUT, or hold no value (10_state.md R34). -/
  regs_window : s.regs = s.window
  /-- `STATUS = IDLE`: no buffer loaded (10_state.md R32). -/
  idle_empty : s.status = .idle → s.len = 0 ∧ s.out = []
  /-- `STATUS = READY` implies `CUR < LEN` (10_state.md R32). -/
  ready_cur : s.status = .ready → s.cur < s.len
  /-- `STATUS = DONE` implies `CUR = LEN` (10_state.md R32). -/
  done_cur : s.status = .done → s.cur = s.len
  /-- Without an error ERR_REC and ERR_OFF hold no value (10_state.md R31). -/
  no_error : s.status ≠ .error → s.errCode = .noError ∧ s.errRec = none ∧ s.errOff = none
  /-- With an error the error registers are those of the record at CUR (60_exceptions.md R250, R251). -/
  some_error : s.status = .error → ∃ e, decodeNext s.cfg s.mem s.len s.cur = .error e ∧
    s.errCode = .err e.error ∧ s.errRec = some s.recIndex ∧ s.errOff = some e.off

end Sys2Proof.Machine
end

