-- ==== Sys2Proof/Certificates/Slice0/Obligations.lean ====
section
/-! DEFINITION. The statements about the record decoder, for the provers. Words such as `decisionLine` are the spec's
tables written down again, independently of the stages the model runs. The spec marks some of its rules as its own: a
docstring says "decision Dn" for one that rests on a decision of 92_eei_decisions.md, "derived" for one that the spec
derives from other rules, and names the log entry where a statement rests on a choice of the model. -/

namespace Sys2Proof.Machine

/-! ### Words of the statements -/

/-- The decision list of 60_exceptions.md R246 for a record at `start` whose standard header holds `flags` and
`totalLength`: the error and its offset, or the new CUR. -/
def decisionLine (c : Config) (m : Memory) (len start : Nat) (flags : Byte) (totalLength : BitVec 16) :
    Except Raise Nat :=
  let rem := len - start
  let n := (flagWEID flags).toNat + (flagWSID flags).toNat + (flagWTMS flags).toNat
  let u := (flagUEH flags).toNat
  let h := 26 + 4 * n + 10 * u
  if rem < 16 then .error ⟨.truncatedInput, start⟩
  else if m.read4 start ≠ c.magic then .error ⟨.invalidMagic, start⟩
  else if rem < 20 then .error ⟨.truncatedInput, start + 16⟩
  else if flagMSBF flags = true then .error ⟨.unsupportedByteOrder, start + 16⟩
  else if rem < 20 + 4 * n then .error ⟨.truncatedInput, start + 20⟩
  else if u = 1 ∧ rem < 30 + 4 * n then .error ⟨.truncatedInput, start + 20 + 4 * n⟩
  else if rem < h then .error ⟨.truncatedInput, start + h - 6⟩
  else if totalLength.toNat < h - 16 then .error ⟨.payloadLengthOutOfRange, start + h⟩
  else if 16 + totalLength.toNat > rem then .error ⟨.payloadLengthOutOfRange, start + h⟩
  else .ok (start + 16 + totalLength.toNat)

/-- The state `raise E(off)` leaves (60_exceptions.md R250), field by field. -/
def raisedState (s : State) (e : Raise) : State where
  cfg := s.cfg
  mem := s.mem
  len := s.len
  cur := s.cur
  recIndex := s.recIndex
  status := .error
  errCode := .err e.error
  errRec := some s.recIndex
  errOff := some e.off
  regs := RecRegs.noValue
  out := s.out

/-- The code of each error (60_exceptions.md R241 to R244). -/
def errorNumber : DecodeError → Nat
  | .truncatedInput => 1
  | .invalidMagic => 2
  | .unsupportedByteOrder => 3
  | .payloadLengthOutOfRange => 4

/-- The step raises `e`: after it the host reads the error's code in ERR_CODE and `off` in ERR_OFF. -/
def RaisesAt (s : State) (e : DecodeError) (off : Nat) : Prop :=
  ∃ t, step s = .next t ∧ t.readReg .errCode = .ok (.number (errorNumber e)) ∧ t.readReg .errOff = .ok (.number off)

/-- The flags byte of the record at CUR. -/
def State.flagsAt (s : State) : Byte := s.mem.read (s.cur + 16)

/-- The total_length field of the record at CUR. -/
def State.lengthAt (s : State) : BitVec 16 := be16u (s.mem.read (s.cur + 18)) (s.mem.read (s.cur + 19))

/-- The timestamp of the record at CUR (41_storage_header.md R110). -/
def State.timestampAt (s : State) : BitVec 64 × BitVec 30 :=
  timestamp (le32u (s.mem.read4 (s.cur + 4))) (le32s (s.mem.read4 (s.cur + 8)))

/-- The record output registers of a form without an extended header (10_state.md R26, R27), `h` the form's H. -/
def plainRegs (s : State) (flags ctr : Byte) (len : BitVec 16) (h : Nat) : RecRegs where
  recValid := true
  shPattern := some (s.mem.read4 s.cur)
  tsSec := some s.timestampAt.1
  tsNsec := some s.timestampAt.2
  senderOff := some (s.cur + 12)
  senderLen := some (BitVec.ofNat 3 (trimView s.mem (s.cur + 12)).len)
  flags := some flags
  counter := some ctr
  totalLength := some len
  extPresent := some false
  msgInfo := none
  argCount := none
  apidOff := none
  apidLen := none
  ctidOff := none
  ctidLen := none
  verbose := none
  mstp := none
  mtin := none
  mtype := none
  payOff := some (s.cur + h)
  payLen := some (BitVec.ofNat 16 (len.toNat - (h - 16)))

/-- The record output registers of a form with an extended header at record offset `e` (R26): MSG_INFO's fields by
44_extended_header.md R142. -/
def extRegs (s : State) (flags ctr : Byte) (len : BitVec 16) (e h : Nat) : RecRegs :=
  let b := s.mem.read (s.cur + e)
  { plainRegs s flags ctr len h with
    extPresent := some true
    msgInfo := some b
    argCount := some (s.mem.read (s.cur + e + 1))
    apidOff := some (s.cur + e + 2)
    apidLen := some (BitVec.ofNat 3 (trimView s.mem (s.cur + e + 2)).len)
    ctidOff := some (s.cur + e + 6)
    ctidLen := some (BitVec.ofNat 3 (trimView s.mem (s.cur + e + 6)).len)
    verbose := some (b.getLsbD 0)
    mstp := some (b.extractLsb' 1 3)
    mtin := some (b.extractLsb' 4 4)
    mtype := some (classify b).mtype }

/-- The Record of a pass at CUR (10_state.md R25), `ext` its extended header, `h` its H. -/
def recordAt (s : State) (flags ctr : Byte) (len : BitVec 16) (ext : Option ExtendedHeader) (h : Nat) : Record where
  storage := ⟨s.mem.read4 s.cur, s.timestampAt.1, s.timestampAt.2, trimView s.mem (s.cur + 12)⟩
  standard := ⟨flags, ctr, len⟩
  extended := ext
  payload := ⟨s.cur + h, len.toNat - (h - 16)⟩

/-- The extended header at record offset `e` (44_extended_header.md R140). -/
def extendedAt (s : State) (e : Nat) : ExtendedHeader where
  messageInfo := s.mem.read (s.cur + e)
  argumentCount := s.mem.read (s.cur + e + 1)
  applicationId := trimView s.mem (s.cur + e + 2)
  contextId := trimView s.mem (s.cur + e + 6)

/-- The state a commit leaves (45_record_decoder.md R180, 47_record_stream.md R225), field by field: only `regs`, `out`,
`recIndex`, `cur` and `status` change. -/
def committedState (s : State) (regs : RecRegs) (r : Record) (len : BitVec 16) : State where
  cfg := s.cfg
  mem := s.mem
  len := s.len
  cur := s.cur + 16 + len.toNat
  recIndex := s.recIndex + 1
  status := if s.cur + 16 + len.toNat = s.len then .done else .ready
  errCode := s.errCode
  errRec := s.errRec
  errOff := s.errOff
  regs := regs
  out := s.out ++ [r]

/-- A record of header length `h` and total_length `len` stands at CUR and fits: the pattern is right, `len` is at least
`h - 16`, and `16 + len` bytes remain (60_exceptions.md R246, line 10). -/
def RecordFits (s : State) (len : BitVec 16) (h : Nat) : Prop :=
  s.mem.read4 s.cur = s.cfg.magic ∧ h ≤ 16 + len.toNat ∧ s.cur + 16 + len.toNat ≤ s.len

/-- A form without an extended header commits where its record fits, and only its own registers change. -/
def PlainFormCommits (mk : BitVec 3 → Byte → BitVec 16 → Instr) (low : BitVec 5) (h : Nat) : Prop :=
  ∀ (s : State) (ign : BitVec 3) (ctr : Byte) (len : BitVec 16), RecordFits s len h →
    exec (mk ign ctr len) s =
      .next (committedState s (plainRegs s (flagsByte ign low) ctr len h)
        (recordAt s (flagsByte ign low) ctr len none h) len)

/-- A form with an extended header at record offset `e` commits where its record fits. -/
def ExtFormCommits (mk : BitVec 3 → Byte → BitVec 16 → Instr) (low : BitVec 5) (e h : Nat) : Prop :=
  ∀ (s : State) (ign : BitVec 3) (ctr : Byte) (len : BitVec 16), RecordFits s len h →
    exec (mk ign ctr len) s =
      .next (committedState s (extRegs s (flagsByte ign low) ctr len e h)
        (recordAt s (flagsByte ign low) ctr len (some (extendedAt s e)) h) len)

/-- What a message class does: the five registers it decides, and nothing else (44_extended_header.md section 3). -/
def ClassOutputs (i : Instr) (b : Byte) (t : MessageType) : Prop :=
  ∀ s : State, exec i s = .next { s with
    regs := { s.regs with
      msgInfo := some b
      verbose := some (b.getLsbD 0)
      mstp := some (b.extractLsb' 1 3)
      mtin := some (b.extractLsb' 4 4)
      mtype := some t } }

/-- The bytes that `mask` and `pattern` select decode to `i b`, and `i b` outputs `t` (44_extended_header.md
section 3). -/
def ClassRule (mask pattern : Byte) (i : Byte → Instr) (t : MessageType) : Prop :=
  ∀ b : Byte, b &&& mask = pattern → decodeMsgInfo b = i b ∧ ClassOutputs (i b) b t

/-- A committed record whose message_info byte `mask` and `pattern` select shows the byte's fields and the type `t`. -/
def CommittedClass (mask pattern : Byte) (t : MessageType) : Prop :=
  ∀ (s s' : State) (b : Byte), s.status = .ready → step s = .next s' → s'.regs.msgInfo = some b → b &&& mask = pattern →
    s'.regs.verbose = some (b.getLsbD 0) ∧ s'.regs.mstp = some (b.extractLsb' 1 3) ∧
    s'.regs.mtin = some (b.extractLsb' 4 4) ∧ s'.regs.mtype = some t

/-- A valid record (45_record_decoder.md R183), as a byte string of its own. -/
def ValidRecord (magic : Bytes4) (s : List Byte) : Prop :=
  26 ≤ s.length ∧ s.take 4 = magic.toList ∧ flagMSBF (s.getD 16 0#8) = false ∧
    headerLen (s.getD 16 0#8) - 16 ≤ (be16u (s.getD 18 0#8) (s.getD 19 0#8)).toNat ∧
    s.length = 16 + (be16u (s.getD 18 0#8) (s.getD 19 0#8)).toNat

/-- The bytes `a`, `a+1`, `a+2`, `a+3` of a byte string. -/
def slot4 (s : List Byte) (a : Nat) : Bytes4 := ⟨s.getD a 0#8, s.getD (a + 1) 0#8, s.getD (a + 2) 0#8, s.getD (a + 3) 0#8⟩

/-- The view of the trimmed identifier in the slot at record offset `a` of a record that starts at `start`. -/
def slotView (s : List Byte) (start a : Nat) : View := ⟨start + a, (nullTrim (slot4 s a).toList).length⟩

/-- The Record of a byte string that starts at `start` of the buffer, field by field from 30_encoding.md R71: no buffer
and no stage is looked at. -/
def recordOf (start : Nat) (s : List Byte) : Record :=
  let f := s.getD 16 0#8
  let e := 20 + 4 * nExt f
  let ts := timestamp (le32u (slot4 s 4)) (le32s (slot4 s 8))
  { storage := ⟨slot4 s 0, ts.1, ts.2, slotView s start 12⟩
    standard := ⟨f, s.getD 17 0#8, be16u (s.getD 18 0#8) (s.getD 19 0#8)⟩
    extended :=
      if flagUEH f then some ⟨s.getD e 0#8, s.getD (e + 1) 0#8, slotView s start (e + 2), slotView s start (e + 6)⟩
      else none
    payload := ⟨start + headerLen f, s.length - headerLen f⟩ }

/-- The Records of byte strings that stand one after the other from `start` on. -/
def recordsOf : Nat → List (List Byte) → List Record
  | _, [] => []
  | start, s :: ss => recordOf start s :: recordsOf (start + s.length) ss

/-- A Record with every view moved from a start `a` to a start `b` (45_record_decoder.md R182). -/
def Record.moved (r : Record) (a b : Nat) : Record :=
  let mv := fun (v : View) => (⟨v.off - a + b, v.len⟩ : View)
  { storage := { r.storage with senderId := mv r.storage.senderId }
    standard := r.standard
    extended := r.extended.map fun x =>
      { x with applicationId := mv x.applicationId, contextId := mv x.contextId }
    payload := mv r.payload }

/-- The ten registers that hold no value without an extended header (10_state.md R27). -/
def extendedRegs : List Reg :=
  [.msgInfo, .argCount, .apidOff, .apidLen, .ctidOff, .ctidLen, .verbose, .mstp, .mtin, .mtype]

/-- The other eleven registers that hold no value while REC_VALID is 0 (R27). -/
def plainValueRegs : List Reg :=
  [.shPattern, .tsSec, .tsNsec, .senderOff, .senderLen, .flags, .counter, .totalLength, .extPresent, .payOff, .payLen]

/-- The host can read the register. -/
def State.readable (s : State) (r : Reg) : Prop := ∃ v, s.readReg r = .ok v

end Sys2Proof.Machine

open Sys2Proof Sys2Proof.Machine

/-! ### Decoding and encoding -/

/-- A few words written out from 95_test_vectors.md 2.4 and 2.6 decode to the instruction they stand for. -/
def Obligations.SpecWordsDecode : Prop :=
  decode .flags [0x1D#8, 0x07#8, 0x00#8, 0x23#8] = .ok (.recXEST 0#3 7#8 35#16, []) ∧
  decode .flags [0x01#8, 0xFF#8, 0x01#8, 0x00#8] = .ok (.recX 0#3 255#8 256#16, []) ∧
  decode .flags [0x0C#8, 0x00#8, 0x00#8, 0x12#8] = .ok (.recES 0#3 0#8 18#16, []) ∧
  decode .flags [0xE0#8, 0x05#8, 0x00#8, 0x0C#8] = .ok (.recBase 7#3 5#8 12#16, []) ∧
  decode .flags [0xF5#8, 0x00#8, 0xFF#8, 0xFF#8] = .ok (.recXET 7#3 0#8 65535#16, []) ∧
  decode .flags [0xFF#8, 0x00#8, 0x00#8, 0x0A#8] = .ok (.recMSBF 0xFF#8 0#8 10#16, []) ∧
  decode .msgInfo [0x21#8] = .ok (.mtLogError true, []) ∧
  decode .msgInfo [0xF0#8] = .ok (.mtLogRsvHi 15#4 false, []) ∧
  decode .msgInfo [0x12#8] = .ok (.mtAppTrace 1#4 false, []) ∧
  decode .msgInfo [0x0A#8] = .ok (.mtRsv 0#4 5#3 false, [])

/-- DECODE AND ENCODE AGREE: every well-formed instruction is read back from its word, whatever follows. -/
def Obligations.DecodeOfEncode : Prop :=
  ∀ (i : Instr) (rest : List Byte), i.wellFormed = true → decode i.space (encode i ++ rest) = .ok (i, rest)

/-- Every decoded instruction is well formed, of the space it was read in, and its word is the bytes read. -/
def Obligations.EncodeOfDecode : Prop :=
  ∀ (sp : OpSpace) (bs rest : List Byte) (i : Instr), decode sp bs = .ok (i, rest) →
    i.wellFormed = true ∧ i.space = sp ∧ encode i ++ rest = bs

/-- The two opcode maps partition the 256 values of their byte, and the decoder follows them: of the rows, exactly the
decoded instruction's selects the byte (R76, R77, R163: derived). -/
def Obligations.OpcodeMapsPartition : Prop :=
  (∀ (f ctr : Byte) (len : BitVec 16), formRows.filter (·.selects f) = [(decodeForm f ctr len).row]) ∧
  (∀ b : Byte, classRows.filter (·.selects b) = [(decodeMsgInfo b).row])

/-- What the numbered readers compute, as numbers (R14). -/
def Obligations.FieldReadersAsNumbers : Prop :=
  (∀ s : Bytes4, (le32u s).toNat = s.b0.toNat + 2 ^ 8 * s.b1.toNat + 2 ^ 16 * s.b2.toNat + 2 ^ 24 * s.b3.toNat) ∧
  (∀ s : Bytes4, (le32s s).toInt =
    if (le32u s).toNat < 2 ^ 31 then ((le32u s).toNat : Int) else ((le32u s).toNat : Int) - 2 ^ 32) ∧
  (∀ s0 s1 : Byte, (be16u s0 s1).toNat = 2 ^ 8 * s0.toNat + s1.toNat)

/-! ### The step -/

/-- A STEP RUNS THE DECODED INSTRUCTION: the one the decoder reads from the four bytes of the standard header, at CUR + 16
to CUR + 19. That these four bytes are the instruction word is the model's DESIGN CHOICE (log 8). -/
def Obligations.StepRunsDecodedInstruction : Prop :=
  ∀ (s : State) (i : Instr) (rest : List Byte), s.status = .ready → decode .flags s.fetchWord = .ok (i, rest) →
    step s = exec i s

/-- NEXT (R224, decisions D10, D22; R180, R225, R250, decisions D5, D6, D7, D9, D18): outside READY nothing changes;
in READY one DECODE_NEXT runs and ends in COMMIT or the error entry. -/
def Obligations.NextRunsDecodeNext : Prop :=
  ∀ s : State, hostCommand .next s = .next (
    if s.status = .ready then
      match decodeNext s.cfg s.mem s.len s.cur with
      | .ok (r, scan) =>
        { s with
          regs := RecRegs.ofRecord r
          out := s.out ++ [r]
          recIndex := s.recIndex + 1
          cur := scan
          status := if scan = s.len then .done else .ready }
      | .error e => raisedState s e
    else s)

/-- No step faults and no step is refused, in any state (R224; every instruction has a meaning). -/
def Obligations.StepAlwaysAnswersNext : Prop := ∀ s : State, ∃ t, step s = .next t

/-- The outcome of a pass is the first line of the decision list (R246: derived; the error entry is decision D7). -/
def Obligations.PassFollowsDecisionList : Prop :=
  ∀ s : State, s.status = .ready →
    match decisionLine s.cfg s.mem s.len s.cur s.flagsAt s.lengthAt with
    | .error e => step s = .next (raisedState s e)
    | .ok scan => ∃ t, step s = .next t ∧ t.cur = scan ∧ t.recIndex = s.recIndex + 1 ∧ t.status ≠ .error

/-- Every record form, the illegal one too, raises what the decision list says for its own operands, with the error
entry and nothing else (R245, R246: derived; the error entry is decision D7). -/
def Obligations.FormsRaiseByDecisionList : Prop :=
  ∀ (i : Instr) (s : State) (ctr : Byte) (len : BitVec 16) (e : Raise), i.space = .flags →
    i.wordTail = headerTail ctr len → decisionLine s.cfg s.mem s.len s.cur i.opcodeByte len = .error e →
    exec i s = .next (raisedState s e)

/-! ### The record forms -/

/-- The eight legal forms without an extended header, with their H (R200, R202, R204, R206, R208, R210, R212, R214,
R217: derived). -/
def Obligations.PlainFormsCommit : Prop :=
  PlainFormCommits .recBase 0x00#5 26 ∧ PlainFormCommits .recE 0x04#5 30 ∧ PlainFormCommits .recS 0x08#5 30 ∧
  PlainFormCommits .recES 0x0C#5 34 ∧ PlainFormCommits .recT 0x10#5 30 ∧ PlainFormCommits .recET 0x14#5 34 ∧
  PlainFormCommits .recST 0x18#5 34 ∧ PlainFormCommits .recEST 0x1C#5 38

/-- The eight legal forms with an extended header, with its offset and their H (R201, R203, R205, R207, R209, R211,
R213, R215, R217: derived). -/
def Obligations.ExtendedFormsCommit : Prop :=
  ExtFormCommits .recX 0x01#5 20 36 ∧ ExtFormCommits .recXE 0x05#5 24 40 ∧ ExtFormCommits .recXS 0x09#5 24 40 ∧
  ExtFormCommits .recXES 0x0D#5 28 44 ∧ ExtFormCommits .recXT 0x11#5 24 40 ∧ ExtFormCommits .recXET 0x15#5 28 44 ∧
  ExtFormCommits .recXST 0x19#5 28 44 ∧ ExtFormCommits .recXEST 0x1D#5 32 48

/-- The illegal form raises UnsupportedByteOrder at the flags byte once the pattern is right and 20 bytes are there
(R216, R243; the error entry is decision D7), whatever its other bits and its total_length. -/
def Obligations.MsbfRaisesUnsupportedByteOrder : Prop :=
  ∀ (s : State) (flags ctr : Byte) (len : BitVec 16), flags.getLsbD 1 = true → s.mem.read4 s.cur = s.cfg.magic →
    s.cur + 20 ≤ s.len →
    exec (.recMSBF flags ctr len) s = .next (raisedState s ⟨.unsupportedByteOrder, s.cur + 16⟩)

/-- H of every flags byte: one of the eight values, `26 + 4*n_ext + 10*ueh` (R70: derived). -/
def Obligations.HeaderLengths : Prop :=
  ∀ f : Byte, headerLen f = 26 + 4 * nExt f + 10 * ueh f ∧ headerLen f ∈ [26, 30, 34, 36, 38, 40, 44, 48]

/-- PAYLEN (R176): `total_length - CONSUMED + 16` with CONSUMED counted from the record's start, which after the
header of flags `f` is `total_length - (10 + 4*n_ext + 10*ueh)`. -/
def Obligations.PayloadLengthIsExact : Prop :=
  ∀ (f : Byte) (len : BitVec 16) (start scan : Nat),
    payLen len start scan = (len.toNat : Int) - ((scan : Int) - start) + 16 ∧
    payLen len start (start + headerLen f) = (len.toNat : Int) - (10 + 4 * nExt f + 10 * ueh f) ∧
    -32 ≤ payLen len start (start + headerLen f) ∧ payLen len start (start + headerLen f) ≤ 65525

/-- PAYSLICE (R178): a length that is negative or more than what remains raises PayloadLengthOutOfRange at the payload's
offset; any other gives the view of exactly that many bytes, and SCAN after them. -/
def Obligations.PayloadSliceIsExact : Prop :=
  ∀ (n : Int) (len scan : Nat),
    ((n < 0 ∨ n > (len : Int) - scan) → paySlice n len scan = .error ⟨.payloadLengthOutOfRange, scan⟩) ∧
    (0 ≤ n → n ≤ (len : Int) - scan →
      ∃ v scan', paySlice n len scan = .ok (v, scan') ∧ v.off = scan ∧ (v.len : Int) = n ∧ (scan' : Int) = scan + n)

/-- SKIPEXT (R130): four bytes for each of flags bits 2, 3 and 4 that is set, or TruncatedInput at the first of them. -/
def Obligations.SkipExtensionsByCount : Prop :=
  ∀ (f : Byte) (len scan : Nat),
    let n := (f.getLsbD 2).toNat + (f.getLsbD 3).toNat + (f.getLsbD 4).toNat
    (len - scan < 4 * n → skipExt f len scan = .error ⟨.truncatedInput, scan⟩) ∧
    (4 * n ≤ len - scan → skipExt f len scan = .ok (scan + 4 * n))

/-! ### The message classes -/

/-- The nine classes of MSTP = 0 (R150 to R158): which bytes select each, and what it outputs. That a class has an
instruction of its own, which writes five registers, is the model's reading (log 9). -/
def Obligations.LogClassesOutput : Prop :=
  ClassRule 0xFE#8 0x10#8 (fun b => .mtLogFatal (b.getLsbD 0)) (.log .fatal) ∧
  ClassRule 0xFE#8 0x20#8 (fun b => .mtLogError (b.getLsbD 0)) (.log .error) ∧
  ClassRule 0xFE#8 0x30#8 (fun b => .mtLogWarn (b.getLsbD 0)) (.log .warn) ∧
  ClassRule 0xFE#8 0x40#8 (fun b => .mtLogInfo (b.getLsbD 0)) (.log .info) ∧
  ClassRule 0xFE#8 0x50#8 (fun b => .mtLogDebug (b.getLsbD 0)) (.log .debug) ∧
  ClassRule 0xFE#8 0x60#8 (fun b => .mtLogVerbose (b.getLsbD 0)) (.log .verbose) ∧
  ClassRule 0xFE#8 0x00#8 (fun b => .mtLogRsv0 (b.getLsbD 0)) (.log .reserved) ∧
  ClassRule 0xFE#8 0x70#8 (fun b => .mtLogRsv7 (b.getLsbD 0)) (.log .reserved) ∧
  ClassRule 0x8E#8 0x80#8 (fun b => .mtLogRsvHi (b.extractLsb' 4 4) (b.getLsbD 0)) (.log .reserved)

/-- The four classes of MSTP other than 0 (R159 to R162). That a class has an instruction of its own is the model's
reading (log 9). -/
def Obligations.OtherClassesOutput : Prop :=
  ClassRule 0x0E#8 0x02#8 (fun b => .mtAppTrace (b.extractLsb' 4 4) (b.getLsbD 0)) .applicationTrace ∧
  ClassRule 0x0E#8 0x04#8 (fun b => .mtNetTrace (b.extractLsb' 4 4) (b.getLsbD 0)) .networkTrace ∧
  ClassRule 0x0E#8 0x06#8 (fun b => .mtControl (b.extractLsb' 4 4) (b.getLsbD 0)) .control ∧
  ClassRule 0x08#8 0x08#8 (fun b => .mtRsv (b.extractLsb' 4 4) (b.extractLsb' 1 3) (b.getLsbD 0)) .reserved

/-- What a committed record of each class of MSTP = 0 shows (R150 to R158). -/
def Obligations.CommittedLogClasses : Prop :=
  CommittedClass 0xFE#8 0x10#8 (.log .fatal) ∧ CommittedClass 0xFE#8 0x20#8 (.log .error) ∧
  CommittedClass 0xFE#8 0x30#8 (.log .warn) ∧ CommittedClass 0xFE#8 0x40#8 (.log .info) ∧
  CommittedClass 0xFE#8 0x50#8 (.log .debug) ∧ CommittedClass 0xFE#8 0x60#8 (.log .verbose) ∧
  CommittedClass 0xFE#8 0x00#8 (.log .reserved) ∧ CommittedClass 0xFE#8 0x70#8 (.log .reserved) ∧
  CommittedClass 0x8E#8 0x80#8 (.log .reserved)

/-- What a committed record of each other class shows (R159 to R162). -/
def Obligations.CommittedOtherClasses : Prop :=
  CommittedClass 0x0E#8 0x02#8 .applicationTrace ∧ CommittedClass 0x0E#8 0x04#8 .networkTrace ∧
  CommittedClass 0x0E#8 0x06#8 .control ∧ CommittedClass 0x08#8 0x08#8 .reserved

/-- A reserved message type is no error (R162): a READY state at a record with an extended header that fits commits,
whatever the message_info byte, and one with bit 3 set shows MTYPE Reserved. -/
def Obligations.ReservedTypeCommits : Prop :=
  ∀ s : State, s.status = .ready → flagUEH s.flagsAt = true → flagMSBF s.flagsAt = false →
    RecordFits s s.lengthAt (headerLen s.flagsAt) →
    let b := s.mem.read (s.cur + 20 + 4 * nExt s.flagsAt)
    ∃ t, step s = .next t ∧ t.status ≠ .error ∧ t.recIndex = s.recIndex + 1 ∧
      t.cur = s.cur + 16 + s.lengthAt.toNat ∧ t.regs.msgInfo = some b ∧
      (b &&& 0x08#8 = 0x08#8 → t.regs.mtype = some .reserved)

/-- The class instruction of a byte outputs what CLASSIFY of the byte returns (R142, R163: derived), for all 256 bytes.
The instruction of its own is the model's reading (log 9). -/
def Obligations.ClassInstructionIsClassify : Prop :=
  ∀ (b : Byte) (s : State), exec (decodeMsgInfo b) s = .next { s with
    regs := { s.regs with
      msgInfo := some b
      verbose := some (classify b).verbose
      mstp := some (classify b).mstp
      mtin := some (classify b).mtin
      mtype := some (classify b).mtype } }

/-- A committed extended record shows exactly what its message class's instruction outputs: running that instruction
after the step changes nothing. The instruction of its own is the model's reading (log 9). -/
def Obligations.CommitRunsMessageClass : Prop :=
  ∀ (s t : State) (b : Byte), s.status = .ready → step s = .next t → t.regs.msgInfo = some b →
    exec (decodeMsgInfo b) t = .next t

/-- Two message_info bytes that differ only in bits 7:4, of a type that is not Log, differ in the raw MTIN alone
(R144). -/
def Obligations.TypeInfoUnusedOutsideLog : Prop :=
  ∀ a b : Byte, infoVerb a = infoVerb b → infoMstp a = infoMstp b → infoMstp a ≠ 0#3 →
    classify a = { classify b with mtin := infoMtin a }

/-- CLASSIFY by its pseudocode, with the fields as numbers (R142). -/
def Obligations.ClassifyByCases : Prop :=
  ∀ b : Byte,
    (classify b).verbose.toNat = b.toNat % 2 ∧
    (classify b).mstp.toNat = b.toNat / 2 % 8 ∧
    (classify b).mtin.toNat = b.toNat / 16 ∧
    (classify b).mtype =
      match b.toNat / 2 % 8 with
      | 0 => .log (match b.toNat / 16 with
        | 1 => .fatal
        | 2 => .error
        | 3 => .warn
        | 4 => .info
        | 5 => .debug
        | 6 => .verbose
        | _ => .reserved)
      | 1 => .applicationTrace
      | 2 => .networkTrace
      | 3 => .control
      | _ => .reserved

/-! ### Identifiers and timestamps -/

/-- NULLTRIM (R100): up to and including the last byte that is not zero; unchanged when all bytes are zero. -/
def Obligations.NullTrimKeepsUpToLastNonZero : Prop :=
  ∀ f : List Byte,
    ((∀ b ∈ f, b = 0#8) → nullTrim f = f) ∧
    (∀ k : Nat, k < f.length → f.getD k 0#8 ≠ 0#8 → (∀ j, k < j → j < f.length → f.getD j 0#8 = 0#8) →
      nullTrim f = f.take (k + 1))

/-- TRIMVIEW (R101, R102: derived): the slot's offset; length 4 when the slot is all zero or its last byte is not,
else 1 + the index of the last byte that is not zero. -/
def Obligations.TrimViewOfSlot : Prop :=
  ∀ (m : Memory) (o : Nat), trimView m o = ⟨o,
    if m.read (o + 3) ≠ 0#8 then 4
    else if m.read (o + 2) ≠ 0#8 then 3
    else if m.read (o + 1) ≠ 0#8 then 2
    else if m.read o ≠ 0#8 then 1
    else 4⟩

/-- TIMESTAMP of a non-negative microseconds field (R113): the sum does not wrap. -/
def Obligations.TimestampCarries : Prop :=
  ∀ seconds micros : BitVec 32, 0 ≤ micros.toInt →
    (timestamp seconds micros).1.toNat = seconds.toNat + micros.toNat / 1000000 ∧
    (timestamp seconds micros).2.toNat = micros.toNat % 1000000 * 1000

/-- Bounds of TIMESTAMP for a non-negative microseconds field (R114: derived). -/
def Obligations.TimestampBounds : Prop :=
  ∀ seconds micros : BitVec 32, 0 ≤ micros.toInt →
    micros.toNat / 1000000 ≤ 2147 ∧
    (timestamp seconds micros).2.toNat ≤ 999999000 ∧ 1000 ∣ (timestamp seconds micros).2.toNat ∧
    seconds.toNat ≤ (timestamp seconds micros).1.toNat ∧
    (timestamp seconds micros).1.toNat ≤ seconds.toNat + 2147 ∧ seconds.toNat + 2147 < 2 ^ 33

/-- A negative microseconds field gives the open parameter NEG_USEC of the two fields (R115, decision D14;
log 3: the model leaves the value open). -/
def Obligations.NegativeMicrosecondsAreOpen : Prop :=
  ∀ seconds micros : BitVec 32, micros.toInt < 0 → timestamp seconds micros = Config.negUsec seconds micros

/-! ### Commit and its records -/

/-- A commit advances CUR by `16 + total_length`, at least 26 bytes, and not beyond LEN (R179: derived). -/
def Obligations.CommitAdvancesByRecordLength : Prop :=
  ∀ s t : State, s.status = .ready → step s = .next t → t.status ≠ .error →
    t.cur = s.cur + 16 + s.lengthAt.toNat ∧ s.cur + 26 ≤ t.cur ∧ t.cur ≤ s.len

/-- The legal values of the output registers of a committed Record (R26, decisions D16, D18), `start` its start. -/
def Obligations.CommittedRecordIsLegal : Prop :=
  ∀ (c : Config) (m : Memory) (len start scan : Nat) (r : Record), decodeNext c m len start = .ok (r, scan) →
    r.storage.pattern = c.magic ∧
    r.storage.senderId.off = start + 12 ∧ 1 ≤ r.storage.senderId.len ∧ r.storage.senderId.len ≤ 4 ∧
    flagMSBF r.standard.flags = false ∧
    10 + 4 * nExt r.standard.flags + 10 * ueh r.standard.flags ≤ r.standard.totalLength.toNat ∧
    r.extended.isSome = flagUEH r.standard.flags ∧
    (∀ x, r.extended = some x →
      x.applicationId.off = start + 22 + 4 * nExt r.standard.flags ∧
      1 ≤ x.applicationId.len ∧ x.applicationId.len ≤ 4 ∧
      x.contextId.off = start + 26 + 4 * nExt r.standard.flags ∧ 1 ≤ x.contextId.len ∧ x.contextId.len ≤ 4) ∧
    r.payload.off = start + 26 + 4 * nExt r.standard.flags + 10 * ueh r.standard.flags ∧ r.payload.len ≤ 65525

/-- The views of a committed Record lie inside the record and the buffer (R29: derived). -/
def Obligations.ViewsInsideRecord : Prop :=
  ∀ (c : Config) (m : Memory) (len start scan : Nat) (r : Record), decodeNext c m len start = .ok (r, scan) →
    r.storage.senderId.off + r.storage.senderId.len ≤ start + 16 ∧
    (∀ x, r.extended = some x →
      x.applicationId.off + x.applicationId.len ≤ x.contextId.off ∧
      x.contextId.off + x.contextId.len ≤ r.payload.off - 6) ∧
    r.payload.off + r.payload.len = scan ∧ scan ≤ len

/-- DECODE_NEXT commits exactly where a valid record starts and fits (R183: derived). -/
def Obligations.CommitsExactlyOnValidRecord : Prop :=
  ∀ (c : Config) (m : Memory) (len start : Nat),
    (∃ r scan, decodeNext c m len start = .ok (r, scan)) ↔
    (∃ n, start + n ≤ len ∧ ValidRecord c.magic (m.readBytes start n))

/-- Exact consumption (R184: derived; the document's first property): a buffer of N valid records, loaded and run,
ends DONE at its end, with N Records whose fields are the inputs' fields, in order. -/
def Obligations.ExactConsumption : Prop :=
  ∀ (s : State) (ss : List (List Byte)), (∀ r ∈ ss, ValidRecord s.cfg.magic r) →
    ss.flatten.length < 2 ^ s.cfg.aw →
    ∃ t u, hostCommand (.load ss.flatten) s = .next t ∧ run t = .next u ∧
      u.status = .done ∧ u.cur = u.len ∧ u.len = ss.flatten.length ∧ u.recIndex = ss.length ∧
      u.errCode = .noError ∧ u.out = recordsOf 0 ss

/-- Independence of records (R182: derived): the Record depends only on the record's own bytes, and the same bytes at
another offset, in any buffer they fit in, give the same Record with its views moved. -/
def Obligations.RecordDependsOnItsBytes : Prop :=
  ∀ (c : Config) (m m' : Memory) (len len' start start' scan : Nat) (r : Record),
    decodeNext c m len start = .ok (r, scan) →
    (∀ k, k < scan - start → m'.read (start' + k) = m.read (start + k)) → start' + (scan - start) ≤ len' →
    decodeNext c m' len' start' = .ok (r.moved start start', start' + (scan - start))

/-- No access leaves the buffer (R56: derived): bytes at or above LEN have no influence on a pass. -/
def Obligations.PassReadsBelowLen : Prop :=
  ∀ (c : Config) (m m' : Memory) (len start : Nat), (∀ a, a < len → m'.read a = m.read a) →
    decodeNext c m' len start = decodeNext c m len start

/-- A step is a function of the configuration, BUF, LEN and CUR (R181): the registers of an earlier record, OUT and
REC_INDEX change nothing of what it decodes. -/
def Obligations.StepIgnoresEarlierRecords : Prop :=
  ∀ s s' t t' : State, s.status = .ready → s'.status = .ready → s.cfg = s'.cfg → s.mem = s'.mem → s.len = s'.len →
    s.cur = s'.cur → step s = .next t → step s' = .next t' →
    t.regs = t'.regs ∧ t.cur = t'.cur ∧ t.status = t'.status ∧
    (t.status = .error → t.errCode = t'.errCode ∧ t.errOff = t'.errOff)

/-! ### Errors -/

/-- The cause and the failing offset of each error (R241 to R244), one clause per row of their tables: the clauses
exclude each other, and the last one is the pass that raises nothing. -/
def Obligations.ErrorCausesAndOffsets : Prop :=
  ∀ s : State, s.status = .ready →
    let rem := s.len - s.cur
    let n := nExt s.flagsAt
    let u := ueh s.flagsAt
    let h := 26 + 4 * n + 10 * u
    let l := s.lengthAt.toNat
    (rem < 16 → RaisesAt s .truncatedInput s.cur) ∧
    (16 ≤ rem → s.mem.read4 s.cur ≠ s.cfg.magic → RaisesAt s .invalidMagic s.cur) ∧
    (s.mem.read4 s.cur = s.cfg.magic →
      (16 ≤ rem → rem < 20 → RaisesAt s .truncatedInput (s.cur + 16)) ∧
      (20 ≤ rem → flagMSBF s.flagsAt = true → RaisesAt s .unsupportedByteOrder (s.cur + 16)) ∧
      (flagMSBF s.flagsAt = false →
        (20 ≤ rem → rem < 20 + 4 * n → RaisesAt s .truncatedInput (s.cur + 20)) ∧
        (u = 1 → 20 + 4 * n ≤ rem → rem < 30 + 4 * n → RaisesAt s .truncatedInput (s.cur + 20 + 4 * n)) ∧
        (20 + 4 * n + 10 * u ≤ rem → rem < h → RaisesAt s .truncatedInput (s.cur + 20 + 4 * n + 10 * u)) ∧
        (h ≤ rem → l < h - 16 ∨ 16 + l > rem → RaisesAt s .payloadLengthOutOfRange (s.cur + h)) ∧
        (h ≤ rem → h - 16 ≤ l → 16 + l ≤ rem → ∃ t, step s = .next t ∧ t.status ≠ .error)))

/-- The error entry (R250, decisions D6, D7) and precision (R251: derived): after a step that raises, the failing
record has had no effect but on the error registers, REC_VALID and STATUS. -/
def Obligations.ErrorsArePrecise : Prop :=
  ∀ s t : State, s.status = .ready → step s = .next t → t.status = .error →
    ∃ e : Raise, decodeNext s.cfg s.mem s.len s.cur = .error e ∧ t = raisedState s e

/-- The host reads the code of the error (R240, decisions D7, D8), the record index and the failing offset after an
error; and from the buffer what the registers do not hold: the offending pattern (R242) at ERR_OFF, and the PAYLEN (R244)
of the record at CUR. -/
def Obligations.HostReadsErrorRegisters : Prop :=
  (∀ (s : State) (e : Raise),
    (raisedState s e).readReg .errCode = .ok (.number (match e.error with
      | .truncatedInput => 1
      | .invalidMagic => 2
      | .unsupportedByteOrder => 3
      | .payloadLengthOutOfRange => 4)) ∧
    (raisedState s e).readReg .errRec = .ok (.number s.recIndex) ∧
    (raisedState s e).readReg .errOff = .ok (.number e.off) ∧
    (raisedState s e).readReg .recValid = .ok (.number 0) ∧ (raisedState s e).readReg .status = .ok (.number 3)) ∧
  ∀ s t : State, s.status = .ready → step s = .next t → t.status = .error →
    (t.errCode = .err .invalidMagic →
      ∃ p, t.offendingPattern = .ok p ∧ p = s.mem.read4 s.cur ∧ p ≠ s.cfg.magic) ∧
    (t.errCode = .err .payloadLengthOutOfRange →
      ∃ n off, t.payLenAt t.cur = .ok n ∧ t.errOff = some off ∧ (n < 0 ∨ n > (t.len : Int) - off))

/-- ERROR is left by LOAD and RESET only (R253, decision D9): NEXT there changes nothing. -/
def Obligations.OnlyLoadAndResetLeaveError : Prop :=
  ∀ (c : Command) (s t : State), s.status = .error → hostCommand c s = .next t →
    (c = .next → t = s) ∧ (t.status ≠ .error → c = .reset ∨ ∃ bs, c = .load bs)

/-! ### Host commands and runs -/

/-- LOAD (R223, decisions D10, D26), field by field, in every STATUS; the loaded bytes read back, and the host reads any
of them by offset (R50, R61: derived). -/
def Obligations.LoadStartsRun : Prop :=
  ∀ (s : State) (bs : List Byte), bs.length < 2 ^ s.cfg.aw →
    ∃ t, hostCommand (.load bs) s = .next t ∧
      t.len = bs.length ∧ (∀ a, t.mem.read a = bs.getD a 0#8) ∧
      (∀ a n, a + n ≤ bs.length → t.readBuf a n = .ok ((bs.drop a).take n)) ∧ t.cur = 0 ∧ t.recIndex = 0 ∧ t.out = [] ∧
      t.errCode = .noError ∧ t.errRec = none ∧ t.errOff = none ∧ t.regs = RecRegs.noValue ∧
      t.status = (if bs.length = 0 then .done else .ready) ∧ t.cfg = s.cfg

/-- A byte string that is no operand of LOAD (R223) is refused by name: the model's choice (log 2). -/
def Obligations.LoadRefusesLongBuffer : Prop :=
  ∀ (s : State) (bs : List Byte), 2 ^ s.cfg.aw ≤ bs.length →
    hostCommand (.load bs) s = .refused (.bufferTooLong bs.length)

/-- RESET (R280, decision D19): from every state, the state of the table of R45 with the configuration unchanged. -/
def Obligations.ResetBlock : Prop :=
  ∀ s : State, hostCommand .reset s = .next
    { cfg := s.cfg, mem := [], len := 0, cur := 0, recIndex := 0, status := .idle, errCode := .noError, errRec := none,
      errOff := none, regs := RecRegs.noValue, out := [] }

/-- The state after reset (R45, decision D19), and that no register of R27 holds a value in it (the refused read is the
model's form of the host fault, log 11). -/
def Obligations.ResetValues : Prop :=
  State.reset.status = .idle ∧ State.reset.len = 0 ∧ State.reset.cur = 0 ∧ State.reset.recIndex = 0 ∧
  State.reset.errCode = .noError ∧ State.reset.errRec = none ∧ State.reset.errOff = none ∧
  State.reset.regs.recValid = false ∧ State.reset.out = [] ∧ State.reset.mem = [] ∧
  ∀ r ∈ extendedRegs ++ plainValueRegs, State.reset.readReg r = .error (.noValue r)

/-- The STATUS transitions, complete (R226, decisions D9, D10). -/
def Obligations.StatusTransitions : Prop :=
  ∀ (c : Command) (s t : State), hostCommand c s = .next t →
    match c with
    | .reset => t.status = .idle
    | .load bs => t.status = if bs = [] then .done else .ready
    | .next =>
      if s.status = .ready then
        match decodeNext s.cfg s.mem s.len s.cur with
        | .ok (_, scan) => (scan < s.len ∧ t.status = .ready) ∨ (scan = s.len ∧ t.status = .done)
        | .error _ => t.status = .error
      else t.status = s.status

/-- The same bytes loaded into any instance with the same configuration start the same run (R228; R181). -/
def Obligations.LoadIsRestartable : Prop :=
  ∀ (s s' : State) (bs : List Byte), s.cfg = s'.cfg → hostCommand (.load bs) s = hostCommand (.load bs) s'

/-- RUN ends (R227: derived): from a state of a run it reaches a state that is not READY, with at most `LEN div 26`
commits. -/
def Obligations.RunEnds : Prop :=
  ∀ s : State, s.Inv → ∃ t, run s = .next t ∧ t.status ≠ .ready ∧ t.Inv ∧
    s.recIndex ≤ t.recIndex ∧ t.recIndex - s.recIndex ≤ s.len / 26

/-! ### What never changes -/

/-- The block is read-only (R5; R66, decision D23): no instruction writes the buffer, LEN or the configuration. -/
def Obligations.NoInstructionWritesBuffer : Prop :=
  ∀ (i : Instr) (s t : State), exec i s = .next t → t.mem = s.mem ∧ t.len = s.len ∧ t.cfg = s.cfg

/-- What has been emitted stays (R34, decision D18): a step appends to OUT at most one Record and changes none. -/
def Obligations.StepOnlyAppendsToOut : Prop :=
  ∀ s t : State, step s = .next t →
    t.out = s.out ∧ t.recIndex = s.recIndex ∨ ∃ r, t.out = s.out ++ [r] ∧ t.recIndex = s.recIndex + 1

/-! ### The invariant -/

/-- AN INVARIANT THAT EVERY STEP KEEPS: the invariants of R22, R31, R32 (decision D9), R34 (decision D18), R250 and
R251, with the canonical form of the buffer (log 6) and a positive AW (log 2). -/
def Obligations.StepKeepsInv : Prop := ∀ s t : State, s.Inv → step s = .next t → t.Inv

/-- The state after reset has the invariant; its configuration is the open one (log 1, log 2). -/
def Obligations.ResetHasInv : Prop := State.reset.Inv

/-- LOAD and RESET start from any state of a legal configuration a run that has the invariant. -/
def Obligations.CommandsEstablishInv : Prop :=
  ∀ (c : Command) (s t : State), c ≠ .next → s.cfg.legal = true → hostCommand c s = .next t → t.Inv

/-- Which registers hold a value in a state of a run (R27, decision D18; the refused read is the model's form of the
host fault, log 11). -/
def Obligations.RegistersThatHoldAValue : Prop :=
  ∀ s : State, s.Inv →
    (s.regs.recValid = false → ∀ r ∈ extendedRegs ++ plainValueRegs, s.readReg r = .error (.noValue r)) ∧
    (s.regs.recValid = true → (∀ r ∈ plainValueRegs, s.readable r) ∧
      (s.regs.extPresent = some false → ∀ r ∈ extendedRegs, s.readReg r = .error (.noValue r)) ∧
      (s.regs.extPresent = some true → ∀ r ∈ extendedRegs, s.readable r))

/-- In a state of a run every view the output registers show can be read (R29, R56: derived): the sender id and the
payload, and with an extended header the two other identifiers. The raw time fields are no output: the host reads them from
the buffer at START + 4 and START + 8 (R111), and TIMESTAMP of them is the Record's timestamp. -/
def Obligations.ShownViewsAreReadable : Prop :=
  ∀ (s : State) (r : Record), s.Inv → r ∈ s.out →
    (∃ bs, s.readView r.storage.senderId = .ok bs ∧ bs.length = r.storage.senderId.len) ∧
    (∃ bs, s.readView r.payload = .ok bs ∧ bs.length = r.payload.len) ∧
    (∃ start seconds micros, r.storage.senderId.off = start + 12 ∧ s.rawSeconds start = .ok seconds ∧
      s.rawMicros start = .ok micros ∧ timestamp seconds micros = (r.storage.tsSec, r.storage.tsNsec)) ∧
    (∀ x, r.extended = some x →
      (∃ bs, s.readView x.applicationId = .ok bs) ∧ ∃ bs, s.readView x.contextId = .ok bs)

/-- LOAD and RESET end the validity of all earlier views (R290): right after either no view can be read. That the read
stops by name is the model's form of what R290 calls a host fault without a meaning (log 13). -/
def Obligations.LoadAndResetEndViews : Prop :=
  ∀ (c : Command) (s t : State) (v : View), c ≠ .next → hostCommand c s = .next t →
    t.readView v = .error (if t.len < v.off + v.len then .inl (.viewOutsideBuffer v) else .inr (.staleView v))

/-- A view stays valid, with its bytes, as long as its buffer is loaded (R290): NEXT ends the validity of none, whether
its pass commits or raises. Nor does it change what the host reads by offset (R61: derived), the raw time fields (R111)
among it. -/
def Obligations.StepKeepsViews : Prop :=
  ∀ s t : State, step s = .next t →
    (∀ (v : View) (bs : List Byte), s.readView v = .ok bs → t.readView v = .ok bs) ∧
    (∀ a n, t.readBuf a n = s.readBuf a n) ∧
    (∀ a, t.rawSeconds a = s.rawSeconds a) ∧ (∀ a, t.rawMicros a = s.rawMicros a)

/-! ### The notation -/

/-- A line of a legal form with `len=auto`, the instance's pattern and the mnemonic's flags byte stands for a valid
record of `H + |pay|` bytes, which ends in its payload (R86, R87, decision D21). -/
def Obligations.AssembledLineIsValidRecord : Prop :=
  ∀ (magic : Bytes4) (l : RecordLine) (bs : List Byte), l.magic = none → l.flags = none → l.len = none →
    l.assemble magic = .ok bs →
    ValidRecord magic bs ∧ bs.length = headerLen l.form.flags + l.pay.length ∧
    bs.drop (headerLen l.form.flags) = l.pay
end

