-- ==== Sys2Proof/Laws/State.lean ====
section
/-! SUPPORT. One lemma per field for every update of the state and of the record output registers. -/

namespace Sys2Proof.Machine

/-! ### COMMIT -/

@[simp] theorem State.commit_cfg (s : State) (r : Record) (scan : Nat) : (s.commit r scan).cfg = s.cfg := rfl
@[simp] theorem State.commit_mem (s : State) (r : Record) (scan : Nat) : (s.commit r scan).mem = s.mem := rfl
@[simp] theorem State.commit_len (s : State) (r : Record) (scan : Nat) : (s.commit r scan).len = s.len := rfl
@[simp] theorem State.commit_cur (s : State) (r : Record) (scan : Nat) : (s.commit r scan).cur = scan := rfl
@[simp] theorem State.commit_recIndex (s : State) (r : Record) (scan : Nat) : (s.commit r scan).recIndex = s.recIndex + 1 := rfl
@[simp] theorem State.commit_status (s : State) (r : Record) (scan : Nat) : (s.commit r scan).status = if scan = s.len then .done else .ready := rfl
@[simp] theorem State.commit_errCode (s : State) (r : Record) (scan : Nat) : (s.commit r scan).errCode = s.errCode := rfl
@[simp] theorem State.commit_errRec (s : State) (r : Record) (scan : Nat) : (s.commit r scan).errRec = s.errRec := rfl
@[simp] theorem State.commit_errOff (s : State) (r : Record) (scan : Nat) : (s.commit r scan).errOff = s.errOff := rfl
@[simp] theorem State.commit_regs (s : State) (r : Record) (scan : Nat) : (s.commit r scan).regs = RecRegs.ofRecord r := rfl
@[simp] theorem State.commit_out (s : State) (r : Record) (scan : Nat) : (s.commit r scan).out = s.out ++ [r] := rfl

/-! ### The error entry -/

@[simp] theorem State.raise_cfg (s : State) (e : Raise) : (s.raise e).cfg = s.cfg := rfl
@[simp] theorem State.raise_mem (s : State) (e : Raise) : (s.raise e).mem = s.mem := rfl
@[simp] theorem State.raise_len (s : State) (e : Raise) : (s.raise e).len = s.len := rfl
@[simp] theorem State.raise_cur (s : State) (e : Raise) : (s.raise e).cur = s.cur := rfl
@[simp] theorem State.raise_recIndex (s : State) (e : Raise) : (s.raise e).recIndex = s.recIndex := rfl
@[simp] theorem State.raise_status (s : State) (e : Raise) : (s.raise e).status = .error := rfl
@[simp] theorem State.raise_errCode (s : State) (e : Raise) : (s.raise e).errCode = .err e.error := rfl
@[simp] theorem State.raise_errRec (s : State) (e : Raise) : (s.raise e).errRec = some s.recIndex := rfl
@[simp] theorem State.raise_errOff (s : State) (e : Raise) : (s.raise e).errOff = some e.off := rfl
@[simp] theorem State.raise_regs (s : State) (e : Raise) : (s.raise e).regs = RecRegs.noValue := rfl
@[simp] theorem State.raise_out (s : State) (e : Raise) : (s.raise e).out = s.out := rfl

/-! ### RESET and LOAD -/

@[simp] theorem State.resetOf_cfg (c : Config) : (State.resetOf c).cfg = c := rfl
@[simp] theorem State.resetOf_mem (c : Config) : (State.resetOf c).mem = [] := rfl
@[simp] theorem State.resetOf_len (c : Config) : (State.resetOf c).len = 0 := rfl
@[simp] theorem State.resetOf_cur (c : Config) : (State.resetOf c).cur = 0 := rfl
@[simp] theorem State.resetOf_recIndex (c : Config) : (State.resetOf c).recIndex = 0 := rfl
@[simp] theorem State.resetOf_status (c : Config) : (State.resetOf c).status = .idle := rfl
@[simp] theorem State.resetOf_errCode (c : Config) : (State.resetOf c).errCode = .noError := rfl
@[simp] theorem State.resetOf_errRec (c : Config) : (State.resetOf c).errRec = none := rfl
@[simp] theorem State.resetOf_errOff (c : Config) : (State.resetOf c).errOff = none := rfl
@[simp] theorem State.resetOf_regs (c : Config) : (State.resetOf c).regs = RecRegs.noValue := rfl
@[simp] theorem State.resetOf_out (c : Config) : (State.resetOf c).out = [] := rfl

@[simp] theorem State.resetBlock_cfg (s : State) : (s.resetBlock).cfg = s.cfg := rfl
@[simp] theorem State.resetBlock_mem (s : State) : (s.resetBlock).mem = [] := rfl
@[simp] theorem State.resetBlock_len (s : State) : (s.resetBlock).len = 0 := rfl
@[simp] theorem State.resetBlock_cur (s : State) : (s.resetBlock).cur = 0 := rfl
@[simp] theorem State.resetBlock_recIndex (s : State) : (s.resetBlock).recIndex = 0 := rfl
@[simp] theorem State.resetBlock_status (s : State) : (s.resetBlock).status = .idle := rfl
@[simp] theorem State.resetBlock_errCode (s : State) : (s.resetBlock).errCode = .noError := rfl
@[simp] theorem State.resetBlock_errRec (s : State) : (s.resetBlock).errRec = none := rfl
@[simp] theorem State.resetBlock_errOff (s : State) : (s.resetBlock).errOff = none := rfl
@[simp] theorem State.resetBlock_regs (s : State) : (s.resetBlock).regs = RecRegs.noValue := rfl
@[simp] theorem State.resetBlock_out (s : State) : (s.resetBlock).out = [] := rfl

@[simp] theorem State.loadBuffer_cfg (s : State) (bs : List Byte) : (s.loadBuffer bs).cfg = s.cfg := rfl
@[simp] theorem State.loadBuffer_mem (s : State) (bs : List Byte) : (s.loadBuffer bs).mem = Memory.ofBytes bs := rfl
@[simp] theorem State.loadBuffer_len (s : State) (bs : List Byte) : (s.loadBuffer bs).len = bs.length := rfl
@[simp] theorem State.loadBuffer_cur (s : State) (bs : List Byte) : (s.loadBuffer bs).cur = 0 := rfl
@[simp] theorem State.loadBuffer_recIndex (s : State) (bs : List Byte) : (s.loadBuffer bs).recIndex = 0 := rfl
@[simp] theorem State.loadBuffer_status (s : State) (bs : List Byte) : (s.loadBuffer bs).status = if bs.length = 0 then .done else .ready := rfl
@[simp] theorem State.loadBuffer_errCode (s : State) (bs : List Byte) : (s.loadBuffer bs).errCode = .noError := rfl
@[simp] theorem State.loadBuffer_errRec (s : State) (bs : List Byte) : (s.loadBuffer bs).errRec = none := rfl
@[simp] theorem State.loadBuffer_errOff (s : State) (bs : List Byte) : (s.loadBuffer bs).errOff = none := rfl
@[simp] theorem State.loadBuffer_regs (s : State) (bs : List Byte) : (s.loadBuffer bs).regs = RecRegs.noValue := rfl
@[simp] theorem State.loadBuffer_out (s : State) (bs : List Byte) : (s.loadBuffer bs).out = [] := rfl

/-! ### A message class -/

@[simp] theorem State.outputClass_cfg (s : State) (mtin : BitVec 4) (mstp : BitVec 3) (verb : Bool) (t : MessageType) : (s.outputClass mtin mstp verb t).cfg = s.cfg := rfl
@[simp] theorem State.outputClass_mem (s : State) (mtin : BitVec 4) (mstp : BitVec 3) (verb : Bool) (t : MessageType) : (s.outputClass mtin mstp verb t).mem = s.mem := rfl
@[simp] theorem State.outputClass_len (s : State) (mtin : BitVec 4) (mstp : BitVec 3) (verb : Bool) (t : MessageType) : (s.outputClass mtin mstp verb t).len = s.len := rfl
@[simp] theorem State.outputClass_cur (s : State) (mtin : BitVec 4) (mstp : BitVec 3) (verb : Bool) (t : MessageType) : (s.outputClass mtin mstp verb t).cur = s.cur := rfl
@[simp] theorem State.outputClass_recIndex (s : State) (mtin : BitVec 4) (mstp : BitVec 3) (verb : Bool) (t : MessageType) : (s.outputClass mtin mstp verb t).recIndex = s.recIndex := rfl
@[simp] theorem State.outputClass_status (s : State) (mtin : BitVec 4) (mstp : BitVec 3) (verb : Bool) (t : MessageType) : (s.outputClass mtin mstp verb t).status = s.status := rfl
@[simp] theorem State.outputClass_errCode (s : State) (mtin : BitVec 4) (mstp : BitVec 3) (verb : Bool) (t : MessageType) : (s.outputClass mtin mstp verb t).errCode = s.errCode := rfl
@[simp] theorem State.outputClass_errRec (s : State) (mtin : BitVec 4) (mstp : BitVec 3) (verb : Bool) (t : MessageType) : (s.outputClass mtin mstp verb t).errRec = s.errRec := rfl
@[simp] theorem State.outputClass_errOff (s : State) (mtin : BitVec 4) (mstp : BitVec 3) (verb : Bool) (t : MessageType) : (s.outputClass mtin mstp verb t).errOff = s.errOff := rfl
@[simp] theorem State.outputClass_regs (s : State) (mtin : BitVec 4) (mstp : BitVec 3) (verb : Bool) (t : MessageType) : (s.outputClass mtin mstp verb t).regs = s.regs.latchClass (infoByte mtin mstp verb) ⟨verb, mstp, mtin, t⟩ := rfl
@[simp] theorem State.outputClass_out (s : State) (mtin : BitVec 4) (mstp : BitVec 3) (verb : Bool) (t : MessageType) : (s.outputClass mtin mstp verb t).out = s.out := rfl

/-! ### The end of a pass -/

@[simp] theorem State.endPass_ok (s : State) (r : Record) (scan : Nat) : s.endPass (.ok (r, scan)) = s.commit r scan := rfl
@[simp] theorem State.endPass_error (s : State) (e : Raise) : s.endPass (.error e) = s.raise e := rfl
@[simp] theorem State.endPass_cfg (s : State) (p : Except Raise (Record × Nat)) : (s.endPass p).cfg = s.cfg := by
  cases p <;> rfl
@[simp] theorem State.endPass_mem (s : State) (p : Except Raise (Record × Nat)) : (s.endPass p).mem = s.mem := by
  cases p <;> rfl
@[simp] theorem State.endPass_len (s : State) (p : Except Raise (Record × Nat)) : (s.endPass p).len = s.len := by
  cases p <;> rfl

/-! ### The registers a Record is shown in -/

@[simp] theorem RecRegs.ofRecord_recValid (r : Record) : (RecRegs.ofRecord r).recValid = true := by
  cases h : r.extended <;> simp [RecRegs.ofRecord, RecRegs.latchExtended, RecRegs.latchClass, h]
@[simp] theorem RecRegs.ofRecord_shPattern (r : Record) : (RecRegs.ofRecord r).shPattern = some r.storage.pattern := by
  cases h : r.extended <;> simp [RecRegs.ofRecord, RecRegs.latchExtended, RecRegs.latchClass, h]
@[simp] theorem RecRegs.ofRecord_tsSec (r : Record) : (RecRegs.ofRecord r).tsSec = some r.storage.tsSec := by
  cases h : r.extended <;> simp [RecRegs.ofRecord, RecRegs.latchExtended, RecRegs.latchClass, h]
@[simp] theorem RecRegs.ofRecord_tsNsec (r : Record) : (RecRegs.ofRecord r).tsNsec = some r.storage.tsNsec := by
  cases h : r.extended <;> simp [RecRegs.ofRecord, RecRegs.latchExtended, RecRegs.latchClass, h]
@[simp] theorem RecRegs.ofRecord_senderOff (r : Record) : (RecRegs.ofRecord r).senderOff = some r.storage.senderId.off := by
  cases h : r.extended <;> simp [RecRegs.ofRecord, RecRegs.latchExtended, RecRegs.latchClass, h]
@[simp] theorem RecRegs.ofRecord_senderLen (r : Record) : (RecRegs.ofRecord r).senderLen = some (BitVec.ofNat 3 r.storage.senderId.len) := by
  cases h : r.extended <;> simp [RecRegs.ofRecord, RecRegs.latchExtended, RecRegs.latchClass, h]
@[simp] theorem RecRegs.ofRecord_flags (r : Record) : (RecRegs.ofRecord r).flags = some r.standard.flags := by
  cases h : r.extended <;> simp [RecRegs.ofRecord, RecRegs.latchExtended, RecRegs.latchClass, h]
@[simp] theorem RecRegs.ofRecord_counter (r : Record) : (RecRegs.ofRecord r).counter = some r.standard.counter := by
  cases h : r.extended <;> simp [RecRegs.ofRecord, RecRegs.latchExtended, RecRegs.latchClass, h]
@[simp] theorem RecRegs.ofRecord_totalLength (r : Record) : (RecRegs.ofRecord r).totalLength = some r.standard.totalLength := by
  cases h : r.extended <;> simp [RecRegs.ofRecord, RecRegs.latchExtended, RecRegs.latchClass, h]
@[simp] theorem RecRegs.ofRecord_extPresent (r : Record) : (RecRegs.ofRecord r).extPresent = some (flagUEH r.standard.flags) := by
  cases h : r.extended <;> simp [RecRegs.ofRecord, RecRegs.latchExtended, RecRegs.latchClass, h]
@[simp] theorem RecRegs.ofRecord_payOff (r : Record) : (RecRegs.ofRecord r).payOff = some r.payload.off := by
  cases h : r.extended <;> simp [RecRegs.ofRecord, RecRegs.latchExtended, RecRegs.latchClass, h]
@[simp] theorem RecRegs.ofRecord_payLen (r : Record) : (RecRegs.ofRecord r).payLen = some (BitVec.ofNat 16 r.payload.len) := by
  cases h : r.extended <;> simp [RecRegs.ofRecord, RecRegs.latchExtended, RecRegs.latchClass, h]
@[simp] theorem RecRegs.ofRecord_msgInfo (r : Record) : (RecRegs.ofRecord r).msgInfo = r.extended.map fun x => x.messageInfo := by
  cases h : r.extended <;> simp [RecRegs.ofRecord, RecRegs.latchExtended, RecRegs.latchClass, RecRegs.noValue, h]
@[simp] theorem RecRegs.ofRecord_argCount (r : Record) : (RecRegs.ofRecord r).argCount = r.extended.map fun x => x.argumentCount := by
  cases h : r.extended <;> simp [RecRegs.ofRecord, RecRegs.latchExtended, RecRegs.latchClass, RecRegs.noValue, h]
@[simp] theorem RecRegs.ofRecord_apidOff (r : Record) : (RecRegs.ofRecord r).apidOff = r.extended.map fun x => x.applicationId.off := by
  cases h : r.extended <;> simp [RecRegs.ofRecord, RecRegs.latchExtended, RecRegs.latchClass, RecRegs.noValue, h]
@[simp] theorem RecRegs.ofRecord_apidLen (r : Record) : (RecRegs.ofRecord r).apidLen = r.extended.map fun x => BitVec.ofNat 3 x.applicationId.len := by
  cases h : r.extended <;> simp [RecRegs.ofRecord, RecRegs.latchExtended, RecRegs.latchClass, RecRegs.noValue, h]
@[simp] theorem RecRegs.ofRecord_ctidOff (r : Record) : (RecRegs.ofRecord r).ctidOff = r.extended.map fun x => x.contextId.off := by
  cases h : r.extended <;> simp [RecRegs.ofRecord, RecRegs.latchExtended, RecRegs.latchClass, RecRegs.noValue, h]
@[simp] theorem RecRegs.ofRecord_ctidLen (r : Record) : (RecRegs.ofRecord r).ctidLen = r.extended.map fun x => BitVec.ofNat 3 x.contextId.len := by
  cases h : r.extended <;> simp [RecRegs.ofRecord, RecRegs.latchExtended, RecRegs.latchClass, RecRegs.noValue, h]
@[simp] theorem RecRegs.ofRecord_verbose (r : Record) : (RecRegs.ofRecord r).verbose = r.extended.map fun x => (classify x.messageInfo).verbose := by
  cases h : r.extended <;> simp [RecRegs.ofRecord, RecRegs.latchExtended, RecRegs.latchClass, RecRegs.noValue, h]
@[simp] theorem RecRegs.ofRecord_mstp (r : Record) : (RecRegs.ofRecord r).mstp = r.extended.map fun x => (classify x.messageInfo).mstp := by
  cases h : r.extended <;> simp [RecRegs.ofRecord, RecRegs.latchExtended, RecRegs.latchClass, RecRegs.noValue, h]
@[simp] theorem RecRegs.ofRecord_mtin (r : Record) : (RecRegs.ofRecord r).mtin = r.extended.map fun x => (classify x.messageInfo).mtin := by
  cases h : r.extended <;> simp [RecRegs.ofRecord, RecRegs.latchExtended, RecRegs.latchClass, RecRegs.noValue, h]
@[simp] theorem RecRegs.ofRecord_mtype (r : Record) : (RecRegs.ofRecord r).mtype = r.extended.map fun x => (classify x.messageInfo).mtype := by
  cases h : r.extended <;> simp [RecRegs.ofRecord, RecRegs.latchExtended, RecRegs.latchClass, RecRegs.noValue, h]

/-! ### The registers a message class writes -/

@[simp] theorem RecRegs.latchClass_recValid (g : RecRegs) (b : Byte) (c : ClassOut) : (g.latchClass b c).recValid = g.recValid := rfl
@[simp] theorem RecRegs.latchClass_shPattern (g : RecRegs) (b : Byte) (c : ClassOut) : (g.latchClass b c).shPattern = g.shPattern := rfl
@[simp] theorem RecRegs.latchClass_tsSec (g : RecRegs) (b : Byte) (c : ClassOut) : (g.latchClass b c).tsSec = g.tsSec := rfl
@[simp] theorem RecRegs.latchClass_tsNsec (g : RecRegs) (b : Byte) (c : ClassOut) : (g.latchClass b c).tsNsec = g.tsNsec := rfl
@[simp] theorem RecRegs.latchClass_senderOff (g : RecRegs) (b : Byte) (c : ClassOut) : (g.latchClass b c).senderOff = g.senderOff := rfl
@[simp] theorem RecRegs.latchClass_senderLen (g : RecRegs) (b : Byte) (c : ClassOut) : (g.latchClass b c).senderLen = g.senderLen := rfl
@[simp] theorem RecRegs.latchClass_flags (g : RecRegs) (b : Byte) (c : ClassOut) : (g.latchClass b c).flags = g.flags := rfl
@[simp] theorem RecRegs.latchClass_counter (g : RecRegs) (b : Byte) (c : ClassOut) : (g.latchClass b c).counter = g.counter := rfl
@[simp] theorem RecRegs.latchClass_totalLength (g : RecRegs) (b : Byte) (c : ClassOut) : (g.latchClass b c).totalLength = g.totalLength := rfl
@[simp] theorem RecRegs.latchClass_extPresent (g : RecRegs) (b : Byte) (c : ClassOut) : (g.latchClass b c).extPresent = g.extPresent := rfl
@[simp] theorem RecRegs.latchClass_payOff (g : RecRegs) (b : Byte) (c : ClassOut) : (g.latchClass b c).payOff = g.payOff := rfl
@[simp] theorem RecRegs.latchClass_payLen (g : RecRegs) (b : Byte) (c : ClassOut) : (g.latchClass b c).payLen = g.payLen := rfl
@[simp] theorem RecRegs.latchClass_msgInfo (g : RecRegs) (b : Byte) (c : ClassOut) : (g.latchClass b c).msgInfo = some b := rfl
@[simp] theorem RecRegs.latchClass_argCount (g : RecRegs) (b : Byte) (c : ClassOut) : (g.latchClass b c).argCount = g.argCount := rfl
@[simp] theorem RecRegs.latchClass_apidOff (g : RecRegs) (b : Byte) (c : ClassOut) : (g.latchClass b c).apidOff = g.apidOff := rfl
@[simp] theorem RecRegs.latchClass_apidLen (g : RecRegs) (b : Byte) (c : ClassOut) : (g.latchClass b c).apidLen = g.apidLen := rfl
@[simp] theorem RecRegs.latchClass_ctidOff (g : RecRegs) (b : Byte) (c : ClassOut) : (g.latchClass b c).ctidOff = g.ctidOff := rfl
@[simp] theorem RecRegs.latchClass_ctidLen (g : RecRegs) (b : Byte) (c : ClassOut) : (g.latchClass b c).ctidLen = g.ctidLen := rfl
@[simp] theorem RecRegs.latchClass_verbose (g : RecRegs) (b : Byte) (c : ClassOut) : (g.latchClass b c).verbose = some c.verbose := rfl
@[simp] theorem RecRegs.latchClass_mstp (g : RecRegs) (b : Byte) (c : ClassOut) : (g.latchClass b c).mstp = some c.mstp := rfl
@[simp] theorem RecRegs.latchClass_mtin (g : RecRegs) (b : Byte) (c : ClassOut) : (g.latchClass b c).mtin = some c.mtin := rfl
@[simp] theorem RecRegs.latchClass_mtype (g : RecRegs) (b : Byte) (c : ClassOut) : (g.latchClass b c).mtype = some c.mtype := rfl

/-- Writing the same class again changes nothing. -/
theorem RecRegs.latchClass_idem (g : RecRegs) (b : Byte) (c : ClassOut) :
    (g.latchClass b c).latchClass b c = g.latchClass b c := rfl

/-! ### The views a host can read -/

@[simp] theorem State.commit_validViews (s : State) (r : Record) (scan : Nat) :
    (s.commit r scan).validViews = s.validViews ++ r.views := by simp [State.validViews]
@[simp] theorem State.raise_validViews (s : State) (e : Raise) : (s.raise e).validViews = s.validViews := rfl
@[simp] theorem State.loadBuffer_validViews (s : State) (bs : List Byte) : (s.loadBuffer bs).validViews = [] := rfl
@[simp] theorem State.resetBlock_validViews (s : State) : s.resetBlock.validViews = [] := rfl

/-! What a host reads of the buffer depends on `mem` and `len` alone. -/

theorem State.readField_eq {α : Type} (s t : State) (h : t.mem = s.mem) (hl : t.len = s.len) (a n : Nat)
    (f : Memory → Nat → α) : t.readField a n f = s.readField a n f := by simp [State.readField, h, hl]

/-- What a read of the buffer answers: the bytes are inside it. -/
theorem State.readField_ok_iff {α : Type} (s : State) (a n : Nat) (f : Memory → Nat → α) (x : α) :
    s.readField a n f = .ok x ↔ a + n ≤ s.len ∧ f s.mem a = x := by
  unfold State.readField
  split <;> simp [*]

theorem State.offendingPattern_of_errOff (s : State) (off : Nat) (h : s.errOff = some off) (hl : off + 4 ≤ s.len) :
    s.offendingPattern = .ok (s.mem.read4 off) := by
  simp [State.offendingPattern, h, State.readField, hl, Except.mapError]

/-- What a read of a view answers: it is valid, inside the buffer, and the bytes are the buffer's. -/
theorem State.readView_ok_iff (s : State) (v : View) (bs : List Byte) : s.readView v = .ok bs ↔
    v.off + v.len ≤ s.len ∧ v ∈ s.validViews ∧ s.mem.readBytes v.off v.len = bs := by
  unfold State.readView State.readBuf State.readField
  split
  · next h => split at h <;> simp_all
  · next h =>
    split at h
    · cases h
      split <;> simp [*]
    · cases h

end Sys2Proof.Machine
end

