-- ==== Sys2Proof/Laws/Decode.lean ====
section
/-! SUPPORT. The two opcode bytes, the word of an instruction, and what `exec` does with each kind of instruction. -/

namespace Sys2Proof

/-! ### total_length and its two bytes -/

@[simp] theorem be16u_of_bytes (v : BitVec 16) : be16u (v.extractLsb' 8 8) (v.extractLsb' 0 8) = v := by
  apply BitVec.eq_of_getLsbD_eq
  intro i hi
  show BitVec.getLsbD (v.extractLsb' 8 8 ++ v.extractLsb' 0 8) i = _
  rw [BitVec.getLsbD_append]
  by_cases h : i < 8
  · simp [h]
  · have h2 : i - 8 < 8 := by omega
    have h3 : 8 + (i - 8) = i := by omega
    simp [h, h2, h3]

@[simp] theorem be16uBytes_be16u (a b : Byte) : be16uBytes (be16u a b) = [a, b] := by
  have h1 : (be16u a b).extractLsb' 8 8 = a := BitVec.extractLsb'_append_eq_left
  have h2 : (be16u a b).extractLsb' 0 8 = b := BitVec.extractLsb'_append_eq_right
  simp [be16uBytes, h1, h2]

/-- The tail of a form's word determines its counter and its total_length. -/
theorem headerTail_inj (c c' : Byte) (l l' : BitVec 16) (h : headerTail c l = headerTail c' l') : c = c' ∧ l = l' := by
  simp only [headerTail, be16uBytes, List.cons.injEq, and_true] at h
  exact ⟨h.1, by rw [← be16u_of_bytes l, ← be16u_of_bytes l', h.2.1, h.2.2]⟩

/-! ### The flags byte -/

/-- Bits 4:0 of a flags byte are its selecting bits, bits 7:5 its ignored bits. -/
theorem flagsByte_bits : ∀ (ign : BitVec 3) (low : BitVec 5),
    flagUEH (flagsByte ign low) = low.getLsbD 0 ∧ flagMSBF (flagsByte ign low) = low.getLsbD 1 ∧
    flagWEID (flagsByte ign low) = low.getLsbD 2 ∧ flagWSID (flagsByte ign low) = low.getLsbD 3 ∧
    flagWTMS (flagsByte ign low) = low.getLsbD 4 ∧ flagIgnored (flagsByte ign low) = ign := by decide

/-- A flags byte is put together again from its ignored and its selecting bits. -/
theorem flagsByte_of_parts : ∀ f : Byte, flagsByte (flagIgnored f) (f.extractLsb' 0 5) = f := by decide

/-! ### The message_info byte -/

/-- The fields of a message_info byte put together from its fields. -/
theorem infoByte_fields : ∀ (mtin : BitVec 4) (mstp : BitVec 3) (verb : Bool),
    infoMtin (infoByte mtin mstp verb) = mtin ∧ infoMstp (infoByte mtin mstp verb) = mstp ∧
    infoVerb (infoByte mtin mstp verb) = verb := by decide

/-- A message_info byte is put together again from its fields. -/
theorem infoByte_of_fields : ∀ b : Byte, infoByte (infoMtin b) (infoMstp b) (infoVerb b) = b := by decide

namespace Machine

/-- CLASSIFY of a byte put together from its fields. -/
theorem classify_infoByte : ∀ (mtin : BitVec 4) (mstp : BitVec 3) (verb : Bool),
    classify (infoByte mtin mstp verb) = ⟨verb, mstp, mtin, messageType mstp mtin⟩ := by decide

/-! ### exec, by the kind of the instruction -/

/-- Every record form runs the one pass on its own flags byte, counter and total_length. -/
theorem exec_form (i : Instr) (h : i.space = .flags) (ctr : Byte) (len : BitVec 16)
    (ht : i.wordTail = headerTail ctr len) (s : State) :
    exec i s = .next (s.runRecord i.opcodeByte ctr len) := by
  cases i <;> simp only [Instr.space, reduceCtorEq] at h <;> simp only [Instr.wordTail] at ht <;>
    obtain ⟨rfl, rfl⟩ := headerTail_inj _ _ _ _ ht <;> rfl

/-- Every message class outputs the fields of its own message_info byte; for a well-formed one the MessageType is that of
the fields. -/
theorem exec_class (s : State) (i : Instr) (h : i.space = .msgInfo) : ∃ mtin mstp verb t,
    exec i s = .next (s.outputClass mtin mstp verb t) ∧ i.opcodeByte = infoByte mtin mstp verb ∧
    (i.wellFormed = true → messageType mstp mtin = t) := by
  cases i <;> simp only [Instr.space, reduceCtorEq] at h
  case mtRsv mtin mstp verb =>
    refine ⟨_, _, _, _, rfl, rfl, ?_⟩
    clear h s
    revert mtin mstp verb
    decide
  case mtLogRsvHi mtin verb =>
    refine ⟨_, _, _, _, rfl, rfl, ?_⟩
    clear h s
    revert mtin verb
    decide
  all_goals exact ⟨_, _, _, _, rfl, rfl, fun _ => rfl⟩

/-- A record form's pass changes no part of the configuration and of the buffer. -/
theorem State.runRecord_frame (s : State) (flags ctr : Byte) (len : BitVec 16) :
    (s.runRecord flags ctr len).cfg = s.cfg ∧ (s.runRecord flags ctr len).mem = s.mem ∧
    (s.runRecord flags ctr len).len = s.len := by
  simp [State.runRecord]

end Machine

end Sys2Proof
end

