-- ==== Sys2Proof/Laws/Memory.lean ====
section
/-! SUPPORT. The buffer: the canonical form is kept by every operation that makes a buffer, and the bytes LOAD was given
read back. -/

namespace Sys2Proof.Machine

@[simp] theorem Memory.read_nil (x : Nat) : Memory.read [] x = 0#8 := rfl

theorem Memory.read_cons (a : Nat) (b : Byte) (m : Memory) (x : Nat) :
    Memory.read ((a, b) :: m) x = if a = x then b else Memory.read m x := rfl

/-- The buffer of a byte string is in canonical form. -/
theorem Memory.ofBytesFrom_wfFrom (bs : List Byte) : ∀ lo a, lo ≤ a → Memory.wfFrom lo (Memory.ofBytesFrom a bs) = true := by
  induction bs with
  | nil => intros; rfl
  | cons b bs ih =>
    intro lo a h
    by_cases hb : b = Memory.unlisted
    · simpa [Memory.ofBytesFrom, hb] using ih lo (a + 1) (by omega)
    · simp [Memory.ofBytesFrom, hb, Memory.wfFrom, h, ih (a + 1) (a + 1) (le_refl _)]

theorem Memory.ofBytes_wf (bs : List Byte) : (Memory.ofBytes bs).wf = true :=
  Memory.ofBytesFrom_wfFrom bs 0 0 (le_refl _)

/-- The buffer of a byte string lists offsets of the string only. -/
theorem Memory.ofBytesFrom_below (bs : List Byte) : ∀ a len, a + bs.length ≤ len →
    Memory.below len (Memory.ofBytesFrom a bs) = true := by
  induction bs with
  | nil => intros; rfl
  | cons b bs ih =>
    intro a len h
    have hl : a + 1 + bs.length ≤ len := by simp only [List.length_cons] at h; omega
    have ha : a < len := by omega
    by_cases hb : b = Memory.unlisted
    · simpa [Memory.ofBytesFrom, hb] using ih (a + 1) len hl
    · have := ih (a + 1) len hl
      simp only [Memory.below] at this
      simp [Memory.ofBytesFrom, hb, Memory.below, ha, this]

theorem Memory.ofBytes_below (bs : List Byte) : Memory.below bs.length (Memory.ofBytes bs) = true :=
  Memory.ofBytesFrom_below bs 0 bs.length (by omega)

/-- The bytes read back; every other offset holds the unlisted byte. -/
theorem Memory.read_ofBytesFrom (bs : List Byte) : ∀ a x,
    (Memory.ofBytesFrom a bs).read x = if x < a then 0#8 else bs.getD (x - a) 0#8 := by
  induction bs with
  | nil => intro a x; simp [Memory.ofBytesFrom]
  | cons b bs ih =>
    intro a x
    have hz : Memory.unlisted = 0#8 := rfl
    rcases Nat.lt_trichotomy x a with h | h | h
    · have h' : a ≠ x := by omega
      by_cases hb : b = Memory.unlisted <;>
        simp [Memory.ofBytesFrom, hb, Memory.read_cons, ih, h, h', Nat.lt_succ_of_lt h]
    · subst h
      by_cases hb : b = Memory.unlisted
      · simp [Memory.ofBytesFrom, hb, ih, hz]
      · simp [Memory.ofBytesFrom, hb, Memory.read_cons]
    · have h1 : ¬ x < a := by omega
      have h2 : ¬ x < a + 1 := by omega
      have h3 : a ≠ x := by omega
      obtain ⟨d, rfl⟩ : ∃ d, x = a + 1 + d := ⟨x - (a + 1), by omega⟩
      have h4 : a + 1 + d - a = d + 1 := by omega
      by_cases hb : b = Memory.unlisted <;>
        (simp [Memory.ofBytesFrom, hb, Memory.read_cons, ih, h1, h3, h4]; omega)

theorem Memory.read_ofBytes (bs : List Byte) (x : Nat) : (Memory.ofBytes bs).read x = bs.getD x 0#8 := by
  simp [Memory.ofBytes, Memory.read_ofBytesFrom]

/-- Every buffer a command makes is in canonical form and holds bytes below LEN only. -/
theorem State.loadBuffer_wf (s : State) (bs : List Byte) :
    (s.loadBuffer bs).mem.wf = true ∧ (s.loadBuffer bs).mem.below (s.loadBuffer bs).len = true :=
  ⟨Memory.ofBytes_wf bs, Memory.ofBytes_below bs⟩

theorem State.reset_wf : State.reset.mem.wf = true ∧ State.reset.mem.below State.reset.len = true := ⟨rfl, rfl⟩

@[simp] theorem Memory.readBytes_length (m : Memory) : ∀ a n, (m.readBytes a n).length = n
  | _, 0 => rfl
  | a, n + 1 => by simp [Memory.readBytes, Memory.readBytes_length m (a + 1) n]

theorem Memory.readBytes_getD (m : Memory) : ∀ a n k, k < n → (m.readBytes a n).getD k 0#8 = m.read (a + k)
  | _, 0, _, h => absurd h (Nat.not_lt_zero _)
  | a, n + 1, 0, _ => by simp [Memory.readBytes]
  | a, n + 1, k + 1, h => by
    have := Memory.readBytes_getD m (a + 1) n k (Nat.lt_of_succ_lt_succ h)
    simp only [Memory.readBytes, List.getD_cons_succ, this]
    congr 1
    omega

/-- Equal bytes give equal byte strings. -/
theorem Memory.readBytes_congr (m m' : Memory) : ∀ a a' n, (∀ k, k < n → m'.read (a' + k) = m.read (a + k)) →
    m'.readBytes a' n = m.readBytes a n
  | _, _, 0, _ => rfl
  | a, a', n + 1, h => by
    have h0 := h 0 (by omega)
    have ih := Memory.readBytes_congr m m' (a + 1) (a' + 1) n fun k hk => by
      have := h (k + 1) (by omega)
      simpa [Nat.add_assoc, Nat.add_comm 1] using this
    simp only [Nat.add_zero] at h0
    simp [Memory.readBytes, h0, ih]

end Sys2Proof.Machine
end

