-- ==== Sys2Proof/Laws/PerInstr.lean ====
section
/-! SUPPORT. What is said of every instruction as syntax: its opcode byte is one its row of spec/opcode_table.json
selects, its word has the length of its space, and its row stands in the table of its space. -/

namespace Sys2Proof

/-- A well-formed instruction's opcode byte is selected by its own row, which is a row of its space's table, and its word
has four bytes for a record form and one for a message class. -/
def Laws.TableRow.Statement (i : Instr) : Prop :=
  i.wellFormed = true →
    i.row.selects i.opcodeByte = true ∧ i.row.space = i.space ∧
    match i.space with
    | .flags => i.row ∈ formRows ∧ (encode i).length = 4
    | .msgInfo => i.row ∈ classRows ∧ (encode i).length = 1

/-- Bits 4:0 of a flags byte, whatever its ignored bits are. -/
theorem flagsByte_masked : ∀ (ign : BitVec 3) (low : BitVec 5), flagsByte ign low &&& 0x1F#8 = low.setWidth 8 := by decide

theorem Laws.TableRow.recMSBF (flags ctr : Byte) (len : BitVec 16) :
    Laws.TableRow.Statement (.recMSBF flags ctr len) := fun h => by
  have hb : ∀ f : Byte, f.getLsbD 1 = true → f &&& 0x02#8 = 0x02#8 := by decide
  refine ⟨?_, rfl, of_decide_eq_true rfl, rfl⟩
  simpa [OpRow.selects, Instr.row, Instr.opcodeByte] using hb flags h

theorem Laws.TableRow.recBase (ign : BitVec 3) (ctr : Byte) (len : BitVec 16) :
    Laws.TableRow.Statement (.recBase ign ctr len) := fun _ =>
  ⟨by simp [OpRow.selects, Instr.row, Instr.opcodeByte, flagsByte_masked], rfl, of_decide_eq_true rfl, rfl⟩

theorem Laws.TableRow.recX (ign : BitVec 3) (ctr : Byte) (len : BitVec 16) :
    Laws.TableRow.Statement (.recX ign ctr len) := fun _ =>
  ⟨by simp [OpRow.selects, Instr.row, Instr.opcodeByte, flagsByte_masked], rfl, of_decide_eq_true rfl, rfl⟩

theorem Laws.TableRow.recE (ign : BitVec 3) (ctr : Byte) (len : BitVec 16) :
    Laws.TableRow.Statement (.recE ign ctr len) := fun _ =>
  ⟨by simp [OpRow.selects, Instr.row, Instr.opcodeByte, flagsByte_masked], rfl, of_decide_eq_true rfl, rfl⟩

theorem Laws.TableRow.recXE (ign : BitVec 3) (ctr : Byte) (len : BitVec 16) :
    Laws.TableRow.Statement (.recXE ign ctr len) := fun _ =>
  ⟨by simp [OpRow.selects, Instr.row, Instr.opcodeByte, flagsByte_masked], rfl, of_decide_eq_true rfl, rfl⟩

theorem Laws.TableRow.recS (ign : BitVec 3) (ctr : Byte) (len : BitVec 16) :
    Laws.TableRow.Statement (.recS ign ctr len) := fun _ =>
  ⟨by simp [OpRow.selects, Instr.row, Instr.opcodeByte, flagsByte_masked], rfl, of_decide_eq_true rfl, rfl⟩

theorem Laws.TableRow.recXS (ign : BitVec 3) (ctr : Byte) (len : BitVec 16) :
    Laws.TableRow.Statement (.recXS ign ctr len) := fun _ =>
  ⟨by simp [OpRow.selects, Instr.row, Instr.opcodeByte, flagsByte_masked], rfl, of_decide_eq_true rfl, rfl⟩

theorem Laws.TableRow.recES (ign : BitVec 3) (ctr : Byte) (len : BitVec 16) :
    Laws.TableRow.Statement (.recES ign ctr len) := fun _ =>
  ⟨by simp [OpRow.selects, Instr.row, Instr.opcodeByte, flagsByte_masked], rfl, of_decide_eq_true rfl, rfl⟩

theorem Laws.TableRow.recXES (ign : BitVec 3) (ctr : Byte) (len : BitVec 16) :
    Laws.TableRow.Statement (.recXES ign ctr len) := fun _ =>
  ⟨by simp [OpRow.selects, Instr.row, Instr.opcodeByte, flagsByte_masked], rfl, of_decide_eq_true rfl, rfl⟩

theorem Laws.TableRow.recT (ign : BitVec 3) (ctr : Byte) (len : BitVec 16) :
    Laws.TableRow.Statement (.recT ign ctr len) := fun _ =>
  ⟨by simp [OpRow.selects, Instr.row, Instr.opcodeByte, flagsByte_masked], rfl, of_decide_eq_true rfl, rfl⟩

theorem Laws.TableRow.recXT (ign : BitVec 3) (ctr : Byte) (len : BitVec 16) :
    Laws.TableRow.Statement (.recXT ign ctr len) := fun _ =>
  ⟨by simp [OpRow.selects, Instr.row, Instr.opcodeByte, flagsByte_masked], rfl, of_decide_eq_true rfl, rfl⟩

theorem Laws.TableRow.recET (ign : BitVec 3) (ctr : Byte) (len : BitVec 16) :
    Laws.TableRow.Statement (.recET ign ctr len) := fun _ =>
  ⟨by simp [OpRow.selects, Instr.row, Instr.opcodeByte, flagsByte_masked], rfl, of_decide_eq_true rfl, rfl⟩

theorem Laws.TableRow.recXET (ign : BitVec 3) (ctr : Byte) (len : BitVec 16) :
    Laws.TableRow.Statement (.recXET ign ctr len) := fun _ =>
  ⟨by simp [OpRow.selects, Instr.row, Instr.opcodeByte, flagsByte_masked], rfl, of_decide_eq_true rfl, rfl⟩

theorem Laws.TableRow.recST (ign : BitVec 3) (ctr : Byte) (len : BitVec 16) :
    Laws.TableRow.Statement (.recST ign ctr len) := fun _ =>
  ⟨by simp [OpRow.selects, Instr.row, Instr.opcodeByte, flagsByte_masked], rfl, of_decide_eq_true rfl, rfl⟩

theorem Laws.TableRow.recXST (ign : BitVec 3) (ctr : Byte) (len : BitVec 16) :
    Laws.TableRow.Statement (.recXST ign ctr len) := fun _ =>
  ⟨by simp [OpRow.selects, Instr.row, Instr.opcodeByte, flagsByte_masked], rfl, of_decide_eq_true rfl, rfl⟩

theorem Laws.TableRow.recEST (ign : BitVec 3) (ctr : Byte) (len : BitVec 16) :
    Laws.TableRow.Statement (.recEST ign ctr len) := fun _ =>
  ⟨by simp [OpRow.selects, Instr.row, Instr.opcodeByte, flagsByte_masked], rfl, of_decide_eq_true rfl, rfl⟩

theorem Laws.TableRow.recXEST (ign : BitVec 3) (ctr : Byte) (len : BitVec 16) :
    Laws.TableRow.Statement (.recXEST ign ctr len) := fun _ =>
  ⟨by simp [OpRow.selects, Instr.row, Instr.opcodeByte, flagsByte_masked], rfl, of_decide_eq_true rfl, rfl⟩

theorem Laws.TableRow.mtLogFatal (verb : Bool) : Laws.TableRow.Statement (.mtLogFatal verb) := fun _ =>
  ⟨by cases verb <;> rfl, rfl, of_decide_eq_true rfl, rfl⟩

theorem Laws.TableRow.mtLogError (verb : Bool) : Laws.TableRow.Statement (.mtLogError verb) := fun _ =>
  ⟨by cases verb <;> rfl, rfl, of_decide_eq_true rfl, rfl⟩

theorem Laws.TableRow.mtLogWarn (verb : Bool) : Laws.TableRow.Statement (.mtLogWarn verb) := fun _ =>
  ⟨by cases verb <;> rfl, rfl, of_decide_eq_true rfl, rfl⟩

theorem Laws.TableRow.mtLogInfo (verb : Bool) : Laws.TableRow.Statement (.mtLogInfo verb) := fun _ =>
  ⟨by cases verb <;> rfl, rfl, of_decide_eq_true rfl, rfl⟩

theorem Laws.TableRow.mtLogDebug (verb : Bool) : Laws.TableRow.Statement (.mtLogDebug verb) := fun _ =>
  ⟨by cases verb <;> rfl, rfl, of_decide_eq_true rfl, rfl⟩

theorem Laws.TableRow.mtLogVerbose (verb : Bool) : Laws.TableRow.Statement (.mtLogVerbose verb) := fun _ =>
  ⟨by cases verb <;> rfl, rfl, of_decide_eq_true rfl, rfl⟩

theorem Laws.TableRow.mtLogRsv0 (verb : Bool) : Laws.TableRow.Statement (.mtLogRsv0 verb) := fun _ =>
  ⟨by cases verb <;> rfl, rfl, of_decide_eq_true rfl, rfl⟩

theorem Laws.TableRow.mtLogRsv7 (verb : Bool) : Laws.TableRow.Statement (.mtLogRsv7 verb) := fun _ =>
  ⟨by cases verb <;> rfl, rfl, of_decide_eq_true rfl, rfl⟩

theorem Laws.TableRow.mtLogRsvHi (mtin : BitVec 4) (verb : Bool) :
    Laws.TableRow.Statement (.mtLogRsvHi mtin verb) := fun h =>
  ⟨by revert mtin verb; decide, rfl, of_decide_eq_true rfl, rfl⟩

theorem Laws.TableRow.mtAppTrace (mtin : BitVec 4) (verb : Bool) :
    Laws.TableRow.Statement (.mtAppTrace mtin verb) := fun h =>
  ⟨by revert mtin verb; decide, rfl, of_decide_eq_true rfl, rfl⟩

theorem Laws.TableRow.mtNetTrace (mtin : BitVec 4) (verb : Bool) :
    Laws.TableRow.Statement (.mtNetTrace mtin verb) := fun h =>
  ⟨by revert mtin verb; decide, rfl, of_decide_eq_true rfl, rfl⟩

theorem Laws.TableRow.mtControl (mtin : BitVec 4) (verb : Bool) :
    Laws.TableRow.Statement (.mtControl mtin verb) := fun h =>
  ⟨by revert mtin verb; decide, rfl, of_decide_eq_true rfl, rfl⟩

theorem Laws.TableRow.mtRsv (mtin : BitVec 4) (mstp : BitVec 3) (verb : Bool) :
    Laws.TableRow.Statement (.mtRsv mtin mstp verb) := fun h =>
  ⟨by revert mtin mstp verb; decide, rfl, of_decide_eq_true rfl, rfl⟩

end Sys2Proof
end

