-- ==== Sys2Proof/Laws/Stages.lean ====
section
/-! SUPPORT. What each stage of a pass can do, said once per stage; callers cite these and unfold no stage. -/

namespace Sys2Proof.Machine

@[simp] theorem except_bind_error {α β : Type} (e : Raise) (f : α → Except Raise β) :
    (Except.error e >>= f) = Except.error e := rfl

@[simp] theorem except_bind_ok {α β : Type} (a : α) (f : α → Except Raise β) : (Except.ok a >>= f) = f a := rfl

/-! ### Take -/

/-- Take succeeds exactly where the bytes remain, and advances SCAN by them. -/
theorem take_ok_iff (len scan n scan' : Nat) : take len scan n = .ok scan' ↔ n ≤ len - scan ∧ scan' = scan + n := by
  unfold take
  split <;> simp <;> omega

/-- Take raises exactly where fewer bytes remain: TruncatedInput at SCAN. -/
theorem take_error_iff (len scan n : Nat) (e : Raise) :
    take len scan n = .error e ↔ len - scan < n ∧ e = ⟨.truncatedInput, scan⟩ := by
  unfold take
  split <;> simp_all [eq_comm]

/-! ### The identifiers -/

theorem lastNonZero_le (f : List Byte) : lastNonZero f ≤ f.length := by
  induction f with
  | nil => simp [lastNonZero]
  | cons b bs ih =>
    unfold lastNonZero
    split
    · split <;> simp
    · rename_i k h
      rw [h] at ih
      simp only [List.length_cons]
      omega

/-- A trimmed string is no longer than the string, and not empty unless the string is. -/
theorem nullTrim_length_bounds (f : List Byte) :
    (nullTrim f).length ≤ f.length ∧ (0 < f.length → 0 < (nullTrim f).length) := by
  have h := lastNonZero_le f
  unfold nullTrim
  split
  · exact ⟨le_refl _, id⟩
  · rename_i k hk
    rw [hk] at h
    simp only [List.length_take]
    omega

@[simp] theorem trimView_off (m : Memory) (o : Nat) : (trimView m o).off = o := rfl

/-- The view of an identifier has 1 to 4 bytes. -/
theorem trimView_len_bounds (m : Memory) (o : Nat) : 1 ≤ (trimView m o).len ∧ (trimView m o).len ≤ 4 := by
  have h := nullTrim_length_bounds (m.read4 o).toList
  simp only [Bytes4.toList, List.length_cons, List.length_nil] at h
  exact ⟨h.2 (by omega), h.1⟩

/-! ### The header -/

/-- The storage header that stands at `start`. -/
def storageAt (m : Memory) (start : Nat) : StorageHeader :=
  ⟨m.read4 start, (timestamp (le32u (m.read4 (start + 4))) (le32s (m.read4 (start + 8)))).1,
    (timestamp (le32u (m.read4 (start + 4))) (le32s (m.read4 (start + 8)))).2, trimView m (start + 12)⟩

/-- Stages 1 to 3 answer the storage header at `start`, with SCAN at its end plus four, or raise one of three errors. -/
theorem headStages_eq (c : Config) (m : Memory) (len start : Nat) :
    headStages c m len start =
      if len - start < 16 then .error ⟨.truncatedInput, start⟩
      else if m.read4 start ≠ c.magic then .error ⟨.invalidMagic, start⟩
      else if len - (start + 16) < 4 then .error ⟨.truncatedInput, start + 16⟩
      else .ok (storageAt m start, start + 20) := by
  by_cases h1 : len - start < 16
  · simp [headStages, storHdr, take, h1]
  by_cases h2 : m.read4 start = c.magic
  · by_cases h3 : len - (start + 16) < 4 <;>
      simp [headStages, storHdr, stdHdr, chkMagic, storageAt, take, h1, h2, h3, pure, Except.pure]
  · simp [headStages, storHdr, chkMagic, take, h1, h2, pure, Except.pure]

/-- EXTHDR answers the ten bytes' header and SCAN past them, nothing at all without UEH, or raises. -/
theorem extHdr_eq (flags : Byte) (m : Memory) (len scan : Nat) :
    extHdr flags m len scan =
      if flagUEH flags = true then
        if len - scan < 10 then .error ⟨.truncatedInput, scan⟩
        else .ok (some ⟨m.read scan, m.read (scan + 1), trimView m (scan + 2), trimView m (scan + 6)⟩, scan + 10)
      else .ok (none, scan) := by
  by_cases hu : flagUEH flags = true
  · by_cases h : len - scan < 10 <;> simp [extHdr, take, hu, h, pure, Except.pure]
  · simp [extHdr, hu, pure, Except.pure]

/-- PAYSLICE answers the payload's view and SCAN past it exactly where the length is in range. -/
theorem paySlice_ok_iff (n : Int) (len scan : Nat) (v : View) (scan' : Nat) :
    paySlice n len scan = .ok (v, scan') ↔
      0 ≤ n ∧ n ≤ (len : Int) - scan ∧ v = ⟨scan, n.toNat⟩ ∧ scan' = scan + n.toNat := by
  unfold paySlice
  split
  · constructor
    · intro h; simp at h
    · rintro ⟨h1, h2, -⟩; omega
  · simp only [Except.ok.injEq, Prod.mk.injEq]
    constructor
    · rintro ⟨rfl, rfl⟩; refine ⟨by omega, by omega, rfl, rfl⟩
    · rintro ⟨-, -, rfl, rfl⟩; exact ⟨rfl, rfl⟩

/-- The extended header that stands at `a`, if the flags byte says there is one. -/
def extendedHeaderAt (m : Memory) (flags : Byte) (a : Nat) : Option ExtendedHeader :=
  if flagUEH flags = true then
    some ⟨m.read a, m.read (a + 1), trimView m (a + 2), trimView m (a + 6)⟩
  else none

/-- H in the two cases of UEH. -/
theorem headerLen_cases (f : Byte) :
    (flagUEH f = true → headerLen f = 36 + 4 * nExt f) ∧ (flagUEH f = false → headerLen f = 26 + 4 * nExt f) := by
  constructor <;> intro h <;> simp [headerLen, rsvOffset, extOffset, ueh, h] <;> omega

/-- PAYSLICE of PAYLEN after a header of `h` bytes: out of range exactly where total_length is too small for the header
or the payload does not fit. -/
theorem paySlice_payLen (l : BitVec 16) (len start h : Nat) (h16 : 16 ≤ h) (hh : h ≤ len - start) :
    paySlice (payLen l start (start + h)) len (start + h) =
      if l.toNat < h - 16 ∨ 16 + l.toNat > len - start then .error ⟨.payloadLengthOutOfRange, start + h⟩
      else .ok (⟨start + h, l.toNat - (h - 16)⟩, start + 16 + l.toNat) := by
  have hp : payLen l start (start + h) = (l.toNat : Int) - h + 16 := by
    simp only [payLen, Config.baseComp]
    omega
  unfold paySlice
  by_cases hb : l.toNat < h - 16 ∨ 16 + l.toNat > len - start
  · rw [if_pos hb, if_pos (by omega)]
  · have e1 : (payLen l start (start + h)).toNat = l.toNat - (h - 16) := by omega
    have e2 : start + h + (l.toNat - (h - 16)) = start + 16 + l.toNat := by omega
    rw [if_neg hb, if_neg (by omega), e1, e2]

/-- Stages 4 to 9, where the standard header is there: the Record and the end of its payload, or one of the errors, in the
order in which the stages can raise them. -/
theorem bodyStages_eq (m : Memory) (len start : Nat) (st : StorageHeader) (std : StandardHeader)
    (h20 : 20 ≤ len - start) :
    bodyStages m len start st std (start + 20) =
      if flagMSBF std.flags = true then .error ⟨.unsupportedByteOrder, start + 16⟩
      else if len - start < 20 + 4 * nExt std.flags then .error ⟨.truncatedInput, start + 20⟩
      else if flagUEH std.flags = true ∧ len - start < 30 + 4 * nExt std.flags then
        .error ⟨.truncatedInput, start + 20 + 4 * nExt std.flags⟩
      else if len - start < headerLen std.flags then .error ⟨.truncatedInput, start + headerLen std.flags - 6⟩
      else if std.totalLength.toNat < headerLen std.flags - 16 ∨ 16 + std.totalLength.toNat > len - start then
        .error ⟨.payloadLengthOutOfRange, start + headerLen std.flags⟩
      else .ok (⟨st, std, extendedHeaderAt m std.flags (start + 20 + 4 * nExt std.flags),
        ⟨start + headerLen std.flags, std.totalLength.toNat - (headerLen std.flags - 16)⟩⟩,
        start + 16 + std.totalLength.toNat) := by
  obtain ⟨f, c, l⟩ := std
  obtain ⟨hH1, hH0⟩ := headerLen_cases f
  simp only
  by_cases h1 : flagMSBF f = true
  · simp [bodyStages, chkOrder, h1]
  by_cases h2 : len - start < 20 + 4 * nExt f
  · have h2' : len - (start + 20) < 4 * nExt f := by omega
    simp [bodyStages, chkOrder, h1, h2, h2', skipExt, take]
  have h2' : ¬ len - (start + 20) < 4 * nExt f := by omega
  by_cases hu : flagUEH f = true
  · have hH := hH1 hu
    by_cases h3 : len - start < 30 + 4 * nExt f
    · have h3' : len - (start + 20 + 4 * nExt f) < 10 := by omega
      simp [bodyStages, chkOrder, h1, h2, h2', skipExt, take, extHdr_eq, hu, h3, h3']
    have h3' : ¬ len - (start + 20 + 4 * nExt f) < 10 := by omega
    by_cases h4 : len - start < headerLen f
    · have h4' : len - (start + 20 + 4 * nExt f + 10) < 6 := by omega
      have h5 : start + headerLen f - 6 = start + 20 + 4 * nExt f + 10 := by omega
      simp [bodyStages, chkOrder, h1, h2, h2', skipExt, take, extHdr_eq, hu, h3, h3', skipRsv, h4, h4', h5]
    have h4' : ¬ len - (start + 20 + 4 * nExt f + 10) < 6 := by omega
    have hs : start + 20 + 4 * nExt f + 10 + 6 = start + headerLen f := by omega
    simp only [bodyStages, chkOrder, h1, h2, h2', skipExt, take, extHdr_eq, hu, h3, h3', skipRsv, h4, h4', hs,
      except_bind_ok, if_true, if_false, Bool.false_eq_true, and_false, Config.extFieldLen, Config.reservedLen]
    rw [paySlice_payLen l len start (headerLen f) (by omega) (by omega)]
    split <;> simp [extendedHeaderAt, hu, pure, Except.pure]
  · have hH := hH0 (by simpa using hu)
    by_cases h4 : len - start < headerLen f
    · have h4' : len - (start + 20 + 4 * nExt f) < 6 := by omega
      have h5 : start + headerLen f - 6 = start + 20 + 4 * nExt f := by omega
      simp [bodyStages, chkOrder, h1, h2, h2', skipExt, take, extHdr_eq, hu, skipRsv, h4, h4', h5]
    have h4' : ¬ len - (start + 20 + 4 * nExt f) < 6 := by omega
    have hs : start + 20 + 4 * nExt f + 6 = start + headerLen f := by omega
    simp only [bodyStages, chkOrder, h1, h2, h2', skipExt, take, extHdr_eq, hu, skipRsv, h4, h4', hs,
      except_bind_ok, if_false, Bool.false_eq_true, false_and, Config.extFieldLen, Config.reservedLen]
    rw [paySlice_payLen l len start (headerLen f) (by omega) (by omega)]
    split <;> simp [extendedHeaderAt, hu, pure, Except.pure]

/-! ### The two ways into a pass -/

/-- A pass with the standard header's values given is DECODE_NEXT where the buffer holds those values. -/
theorem decodePass_eq_decodeNext (c : Config) (m : Memory) (len start : Nat) (flags ctr : Byte) (l : BitVec 16)
    (hf : m.read (start + 16) = flags) (hc : m.read (start + 17) = ctr)
    (hl : be16u (m.read (start + 18)) (m.read (start + 19)) = l) :
    decodePass c m len start flags ctr l = decodeNext c m len start := by
  subst hf hc hl
  rfl

/-- The word fetched at CUR is the four bytes of the standard header, or none of them. -/
theorem State.fetchWord_eq (s : State) : s.fetchWord =
    if s.len - s.cur < 20 then []
    else [s.mem.read (s.cur + 16), s.mem.read (s.cur + 17), s.mem.read (s.cur + 18), s.mem.read (s.cur + 19)] := rfl

end Sys2Proof.Machine
end

