-- ==== Sys2Proof/Tests/Slice0.lean ====
section
/-! SUPPORT. Small tests with expected results from the spec (95_test_vectors.md, and the examples in 46_record_forms.md
and 44_extended_header.md), and one witness for each statement that has hypotheses. -/

namespace Sys2Proof.Tests

open Sys2Proof.Machine

/-! ### Helpers -/

/-- An instance with the vectors' configuration (log 7) after LOAD of a byte string. -/
def loaded (bs : List Byte) : State := (State.resetOf vectorConfig).loadBuffer bs

/-- The state after an outcome; the given state where there is none. -/
def stateOf (s : State) : Host.Outcome State Fault Refusal → State
  | .next t => t
  | .fault _ => s
  | .refused _ => s

/-- The state one NEXT later. -/
def nextOf (s : State) : State := stateOf s (step s)

/-- What 46_record_forms.md gives with each example of a form without an extended header. -/
structure PlainLook where
  status : Status
  cur : Nat
  flags : Option Byte
  payOff : Option Nat
  payLen : Option (BitVec 16)
  extPresent : Option Bool
deriving DecidableEq

def plainLook (s : State) : PlainLook :=
  ⟨s.status, s.cur, s.regs.flags, s.regs.payOff, s.regs.payLen, s.regs.extPresent⟩

/-- And with an extended header. -/
structure ExtLook where
  msgInfo : Option Byte
  argCount : Option Byte
  apidOff : Option Nat
  apidLen : Option (BitVec 3)
  ctidOff : Option Nat
  ctidLen : Option (BitVec 3)
  verbose : Option Bool
  mtype : Option MessageType
deriving DecidableEq

def extLook (s : State) : ExtLook :=
  ⟨s.regs.msgInfo, s.regs.argCount, s.regs.apidOff, s.regs.apidLen, s.regs.ctidOff, s.regs.ctidLen, s.regs.verbose,
    s.regs.mtype⟩

/-- What an error leaves. -/
structure ErrLook where
  code : ErrCode
  record : Option Nat
  off : Option Nat
  status : Status
  cur : Nat
  recIndex : Nat
  recValid : Bool
deriving DecidableEq

def errLook (s : State) : ErrLook := ⟨s.errCode, s.errRec, s.errOff, s.status, s.cur, s.recIndex, s.regs.recValid⟩

/-- The error look of 95_test_vectors.md 2.8: the first record of a buffer fails. -/
def firstFails (e : DecodeError) (off : Nat) : ErrLook := ⟨.err e, some 0, some off, .error, 0, 0, false⟩

/-! ### WellFormed: an ill-formed term for each check -/

theorem test_msbf_without_its_bit_refused : (Instr.recMSBF 0xFD 0 0).wellFormed = false := by decide
theorem test_rsvhi_below_eight_refused : (Instr.mtLogRsvHi 7 true).wellFormed = false := by decide
theorem test_rsv_below_four_refused : (Instr.mtRsv 15 3 true).wellFormed = false := by decide

/-! ### Decode: the word of every row, written out from the spec -/

theorem test_decode_recBase : decode .flags [0x20, 0x05, 0x00, 0x0B] = .ok (.recBase 1 5 11, []) := by decide
theorem test_decode_recX : decode .flags [0x81, 0x2A, 0x05, 0x15] = .ok (.recX 4 42 1301, []) := by decide
theorem test_decode_recE : decode .flags [0xE4, 0x4F, 0x0A, 0x0F] = .ok (.recE 7 79 2575, []) := by decide
theorem test_decode_recXE : decode .flags [0x45, 0x74, 0x0F, 0x19] = .ok (.recXE 2 116 3865, []) := by decide
theorem test_decode_recS : decode .flags [0xA8, 0x99, 0x14, 0x0F] = .ok (.recS 5 153 5135, []) := by decide
theorem test_decode_recXS : decode .flags [0x09, 0xBE, 0x19, 0x19] = .ok (.recXS 0 190 6425, []) := by decide
theorem test_decode_recES : decode .flags [0x6C, 0xE3, 0x1E, 0x13] = .ok (.recES 3 227 7699, []) := by decide
theorem test_decode_recXES : decode .flags [0xCD, 0x08, 0x23, 0x1D] = .ok (.recXES 6 8 8989, []) := by decide
theorem test_decode_recT : decode .flags [0x30, 0x2D, 0x28, 0x0F] = .ok (.recT 1 45 10255, []) := by decide
theorem test_decode_recXT : decode .flags [0x91, 0x52, 0x2D, 0x19] = .ok (.recXT 4 82 11545, []) := by decide
theorem test_decode_recET : decode .flags [0xF4, 0x77, 0x32, 0x13] = .ok (.recET 7 119 12819, []) := by decide
theorem test_decode_recXET : decode .flags [0x55, 0x9C, 0x37, 0x1D] = .ok (.recXET 2 156 14109, []) := by decide
theorem test_decode_recST : decode .flags [0xB8, 0xC1, 0x3C, 0x13] = .ok (.recST 5 193 15379, []) := by decide
theorem test_decode_recXST : decode .flags [0x19, 0xE6, 0x41, 0x1D] = .ok (.recXST 0 230 16669, []) := by decide
theorem test_decode_recEST : decode .flags [0x7C, 0x0B, 0x46, 0x17] = .ok (.recEST 3 11 17943, []) := by decide
theorem test_decode_recXEST : decode .flags [0xDD, 0x30, 0x4B, 0x21] = .ok (.recXEST 6 48 19233, []) := by decide
theorem test_decode_recMSBF : decode .flags [0xE2, 0x05, 0x00, 0x0C] = .ok (.recMSBF 0xE2 5 12, []) := by decide
theorem test_decode_mtLogFatal : decode .msgInfo [0x11] = .ok (.mtLogFatal true, []) := by decide
theorem test_decode_mtLogError : decode .msgInfo [0x20] = .ok (.mtLogError false, []) := by decide
theorem test_decode_mtLogWarn : decode .msgInfo [0x31] = .ok (.mtLogWarn true, []) := by decide
theorem test_decode_mtLogInfo : decode .msgInfo [0x41] = .ok (.mtLogInfo true, []) := by decide
theorem test_decode_mtLogDebug : decode .msgInfo [0x50] = .ok (.mtLogDebug false, []) := by decide
theorem test_decode_mtLogVerbose : decode .msgInfo [0x61] = .ok (.mtLogVerbose true, []) := by decide
theorem test_decode_mtLogRsv0 : decode .msgInfo [0x01] = .ok (.mtLogRsv0 true, []) := by decide
theorem test_decode_mtLogRsv7 : decode .msgInfo [0x70] = .ok (.mtLogRsv7 false, []) := by decide
theorem test_decode_mtLogRsvHi : decode .msgInfo [0xF0] = .ok (.mtLogRsvHi 15 false, []) := by decide
theorem test_decode_mtAppTrace : decode .msgInfo [0x12] = .ok (.mtAppTrace 1 false, []) := by decide
theorem test_decode_mtNetTrace : decode .msgInfo [0x05] = .ok (.mtNetTrace 0 true, []) := by decide
theorem test_decode_mtControl : decode .msgInfo [0xF6] = .ok (.mtControl 15 false, []) := by decide
theorem test_decode_mtRsv : decode .msgInfo [0x0B] = .ok (.mtRsv 0 5 true, []) := by decide
theorem test_decode_keeps_what_follows : decode .flags [0x00, 0x00, 0x00, 0x0A, 0x44, 0x4C] = .ok (.recBase 0 0 10, [0x44, 0x4C]) := by
  decide
theorem test_decode_short_word_refused : decode .flags [0x00, 0x00, 0x00] = .error .shortWord ∧
    decode .msgInfo [] = .error .shortWord := by decide
/-- The host's numbering: the first byte is the low byte; bits above `nbits` are zero. -/
theorem test_decode_table_word : decodeTableWord 32 0x0C00071D = some (.recXEST 0 7 12) ∧
    decodeTableWord 8 0xF5 = some (.recXET 7 0 0) ∧ decodeTableWord 8 0x0102 = some (.recMSBF 0x02 0 0) := by decide

/-! ### The record forms: the example of each form's rule, one NEXT -/

/-- The example of 46_record_forms.md R200. -/
def example_recBase : List Byte := [0x44, 0x4C, 0x54, 0x01, 0x00, 0x00, 0x00, 0x00, 0x00, 0x00, 0x00, 0x00,
  0x45, 0x43, 0x55, 0x31, 0x00, 0x00, 0x00, 0x0B, 0x00, 0x00, 0x00, 0x00, 0x00, 0x00, 0xAA]
theorem test_step_recBase : plainLook (nextOf (loaded example_recBase)) = ⟨.done, 27, some 0x00, some 26, some 1, some false⟩ := by decide

/-- The example of 46_record_forms.md R201. -/
def example_recX : List Byte := [0x44, 0x4C, 0x54, 0x01, 0x00, 0x00, 0x00, 0x00, 0x00, 0x00, 0x00, 0x00, 0x45,
  0x43, 0x55, 0x31, 0x01, 0x00, 0x00, 0x15, 0x41, 0x00, 0x41, 0x50, 0x50, 0x31, 0x43, 0x54, 0x58, 0x31, 0x00,
  0x00, 0x00, 0x00, 0x00, 0x00, 0xAA]
theorem test_step_recX : plainLook (nextOf (loaded example_recX)) = ⟨.done, 37, some 0x01, some 36, some 1, some true⟩ ∧
    extLook (nextOf (loaded example_recX)) =
      ⟨some 0x41, some 0, some 22, some 4, some 26, some 4, some true, some (.log .info)⟩ := by
  decide

/-- The example of 46_record_forms.md R202. -/
def example_recE : List Byte := [0x44, 0x4C, 0x54, 0x01, 0x00, 0x00, 0x00, 0x00, 0x00, 0x00, 0x00, 0x00, 0x45,
  0x43, 0x55, 0x31, 0x04, 0x00, 0x00, 0x0F, 0xE0, 0xE1, 0xE2, 0xE3, 0x00, 0x00, 0x00, 0x00, 0x00, 0x00, 0xAA]
theorem test_step_recE : plainLook (nextOf (loaded example_recE)) = ⟨.done, 31, some 0x04, some 30, some 1, some false⟩ := by decide

/-- The example of 46_record_forms.md R203. -/
def example_recXE : List Byte := [0x44, 0x4C, 0x54, 0x01, 0x00, 0x00, 0x00, 0x00, 0x00, 0x00, 0x00, 0x00, 0x45,
  0x43, 0x55, 0x31, 0x05, 0x00, 0x00, 0x19, 0xE0, 0xE1, 0xE2, 0xE3, 0x41, 0x00, 0x41, 0x50, 0x50, 0x31, 0x43,
  0x54, 0x58, 0x31, 0x00, 0x00, 0x00, 0x00, 0x00, 0x00, 0xAA]
theorem test_step_recXE : plainLook (nextOf (loaded example_recXE)) = ⟨.done, 41, some 0x05, some 40, some 1, some true⟩ ∧
    extLook (nextOf (loaded example_recXE)) =
      ⟨some 0x41, some 0, some 26, some 4, some 30, some 4, some true, some (.log .info)⟩ := by
  decide

/-- The example of 46_record_forms.md R204. -/
def example_recS : List Byte := [0x44, 0x4C, 0x54, 0x01, 0x00, 0x00, 0x00, 0x00, 0x00, 0x00, 0x00, 0x00, 0x45,
  0x43, 0x55, 0x31, 0x08, 0x00, 0x00, 0x0F, 0xE0, 0xE1, 0xE2, 0xE3, 0x00, 0x00, 0x00, 0x00, 0x00, 0x00, 0xAA]
theorem test_step_recS : plainLook (nextOf (loaded example_recS)) = ⟨.done, 31, some 0x08, some 30, some 1, some false⟩ := by decide

/-- The example of 46_record_forms.md R205. -/
def example_recXS : List Byte := [0x44, 0x4C, 0x54, 0x01, 0x00, 0x00, 0x00, 0x00, 0x00, 0x00, 0x00, 0x00, 0x45,
  0x43, 0x55, 0x31, 0x09, 0x00, 0x00, 0x19, 0xE0, 0xE1, 0xE2, 0xE3, 0x41, 0x00, 0x41, 0x50, 0x50, 0x31, 0x43,
  0x54, 0x58, 0x31, 0x00, 0x00, 0x00, 0x00, 0x00, 0x00, 0xAA]
theorem test_step_recXS : plainLook (nextOf (loaded example_recXS)) = ⟨.done, 41, some 0x09, some 40, some 1, some true⟩ ∧
    extLook (nextOf (loaded example_recXS)) =
      ⟨some 0x41, some 0, some 26, some 4, some 30, some 4, some true, some (.log .info)⟩ := by
  decide

/-- The example of 46_record_forms.md R206. -/
def example_recES : List Byte := [0x44, 0x4C, 0x54, 0x01, 0x00, 0x00, 0x00, 0x00, 0x00, 0x00, 0x00, 0x00, 0x45,
  0x43, 0x55, 0x31, 0x0C, 0x00, 0x00, 0x13, 0xE0, 0xE1, 0xE2, 0xE3, 0xE4, 0xE5, 0xE6, 0xE7, 0x00, 0x00, 0x00,
  0x00, 0x00, 0x00, 0xAA]
theorem test_step_recES : plainLook (nextOf (loaded example_recES)) = ⟨.done, 35, some 0x0C, some 34, some 1, some false⟩ := by decide

/-- The example of 46_record_forms.md R207. -/
def example_recXES : List Byte := [0x44, 0x4C, 0x54, 0x01, 0x00, 0x00, 0x00, 0x00, 0x00, 0x00, 0x00, 0x00,
  0x45, 0x43, 0x55, 0x31, 0x0D, 0x00, 0x00, 0x1D, 0xE0, 0xE1, 0xE2, 0xE3, 0xE4, 0xE5, 0xE6, 0xE7, 0x41, 0x00,
  0x41, 0x50, 0x50, 0x31, 0x43, 0x54, 0x58, 0x31, 0x00, 0x00, 0x00, 0x00, 0x00, 0x00, 0xAA]
theorem test_step_recXES : plainLook (nextOf (loaded example_recXES)) = ⟨.done, 45, some 0x0D, some 44, some 1, some true⟩ ∧
    extLook (nextOf (loaded example_recXES)) =
      ⟨some 0x41, some 0, some 30, some 4, some 34, some 4, some true, some (.log .info)⟩ := by
  decide

/-- The example of 46_record_forms.md R208. -/
def example_recT : List Byte := [0x44, 0x4C, 0x54, 0x01, 0x00, 0x00, 0x00, 0x00, 0x00, 0x00, 0x00, 0x00, 0x45,
  0x43, 0x55, 0x31, 0x10, 0x00, 0x00, 0x0F, 0xE0, 0xE1, 0xE2, 0xE3, 0x00, 0x00, 0x00, 0x00, 0x00, 0x00, 0xAA]
theorem test_step_recT : plainLook (nextOf (loaded example_recT)) = ⟨.done, 31, some 0x10, some 30, some 1, some false⟩ := by decide

/-- The example of 46_record_forms.md R209. -/
def example_recXT : List Byte := [0x44, 0x4C, 0x54, 0x01, 0x00, 0x00, 0x00, 0x00, 0x00, 0x00, 0x00, 0x00, 0x45,
  0x43, 0x55, 0x31, 0x11, 0x00, 0x00, 0x19, 0xE0, 0xE1, 0xE2, 0xE3, 0x41, 0x00, 0x41, 0x50, 0x50, 0x31, 0x43,
  0x54, 0x58, 0x31, 0x00, 0x00, 0x00, 0x00, 0x00, 0x00, 0xAA]
theorem test_step_recXT : plainLook (nextOf (loaded example_recXT)) = ⟨.done, 41, some 0x11, some 40, some 1, some true⟩ ∧
    extLook (nextOf (loaded example_recXT)) =
      ⟨some 0x41, some 0, some 26, some 4, some 30, some 4, some true, some (.log .info)⟩ := by
  decide

/-- The example of 46_record_forms.md R210. -/
def example_recET : List Byte := [0x44, 0x4C, 0x54, 0x01, 0x00, 0x00, 0x00, 0x00, 0x00, 0x00, 0x00, 0x00, 0x45,
  0x43, 0x55, 0x31, 0x14, 0x00, 0x00, 0x13, 0xE0, 0xE1, 0xE2, 0xE3, 0xE4, 0xE5, 0xE6, 0xE7, 0x00, 0x00, 0x00,
  0x00, 0x00, 0x00, 0xAA]
theorem test_step_recET : plainLook (nextOf (loaded example_recET)) = ⟨.done, 35, some 0x14, some 34, some 1, some false⟩ := by decide

/-- The example of 46_record_forms.md R211. -/
def example_recXET : List Byte := [0x44, 0x4C, 0x54, 0x01, 0x00, 0x00, 0x00, 0x00, 0x00, 0x00, 0x00, 0x00,
  0x45, 0x43, 0x55, 0x31, 0x15, 0x00, 0x00, 0x1D, 0xE0, 0xE1, 0xE2, 0xE3, 0xE4, 0xE5, 0xE6, 0xE7, 0x41, 0x00,
  0x41, 0x50, 0x50, 0x31, 0x43, 0x54, 0x58, 0x31, 0x00, 0x00, 0x00, 0x00, 0x00, 0x00, 0xAA]
theorem test_step_recXET : plainLook (nextOf (loaded example_recXET)) = ⟨.done, 45, some 0x15, some 44, some 1, some true⟩ ∧
    extLook (nextOf (loaded example_recXET)) =
      ⟨some 0x41, some 0, some 30, some 4, some 34, some 4, some true, some (.log .info)⟩ := by
  decide

/-- The example of 46_record_forms.md R212. -/
def example_recST : List Byte := [0x44, 0x4C, 0x54, 0x01, 0x00, 0x00, 0x00, 0x00, 0x00, 0x00, 0x00, 0x00, 0x45,
  0x43, 0x55, 0x31, 0x18, 0x00, 0x00, 0x13, 0xE0, 0xE1, 0xE2, 0xE3, 0xE4, 0xE5, 0xE6, 0xE7, 0x00, 0x00, 0x00,
  0x00, 0x00, 0x00, 0xAA]
theorem test_step_recST : plainLook (nextOf (loaded example_recST)) = ⟨.done, 35, some 0x18, some 34, some 1, some false⟩ := by decide

/-- The example of 46_record_forms.md R213. -/
def example_recXST : List Byte := [0x44, 0x4C, 0x54, 0x01, 0x00, 0x00, 0x00, 0x00, 0x00, 0x00, 0x00, 0x00,
  0x45, 0x43, 0x55, 0x31, 0x19, 0x00, 0x00, 0x1D, 0xE0, 0xE1, 0xE2, 0xE3, 0xE4, 0xE5, 0xE6, 0xE7, 0x41, 0x00,
  0x41, 0x50, 0x50, 0x31, 0x43, 0x54, 0x58, 0x31, 0x00, 0x00, 0x00, 0x00, 0x00, 0x00, 0xAA]
theorem test_step_recXST : plainLook (nextOf (loaded example_recXST)) = ⟨.done, 45, some 0x19, some 44, some 1, some true⟩ ∧
    extLook (nextOf (loaded example_recXST)) =
      ⟨some 0x41, some 0, some 30, some 4, some 34, some 4, some true, some (.log .info)⟩ := by
  decide

/-- The example of 46_record_forms.md R214. -/
def example_recEST : List Byte := [0x44, 0x4C, 0x54, 0x01, 0x00, 0x00, 0x00, 0x00, 0x00, 0x00, 0x00, 0x00,
  0x45, 0x43, 0x55, 0x31, 0x1C, 0x00, 0x00, 0x17, 0xE0, 0xE1, 0xE2, 0xE3, 0xE4, 0xE5, 0xE6, 0xE7, 0xE8, 0xE9,
  0xEA, 0xEB, 0x00, 0x00, 0x00, 0x00, 0x00, 0x00, 0xAA]
theorem test_step_recEST : plainLook (nextOf (loaded example_recEST)) = ⟨.done, 39, some 0x1C, some 38, some 1, some false⟩ := by decide

/-- The example of 46_record_forms.md R215. -/
def example_recXEST : List Byte := [0x44, 0x4C, 0x54, 0x01, 0x00, 0x00, 0x00, 0x00, 0x00, 0x00, 0x00, 0x00,
  0x45, 0x43, 0x55, 0x31, 0x1D, 0x00, 0x00, 0x21, 0xE0, 0xE1, 0xE2, 0xE3, 0xE4, 0xE5, 0xE6, 0xE7, 0xE8, 0xE9,
  0xEA, 0xEB, 0x41, 0x00, 0x41, 0x50, 0x50, 0x31, 0x43, 0x54, 0x58, 0x31, 0x00, 0x00, 0x00, 0x00, 0x00, 0x00,
  0xAA]
theorem test_step_recXEST : plainLook (nextOf (loaded example_recXEST)) = ⟨.done, 49, some 0x1D, some 48, some 1, some true⟩ ∧
    extLook (nextOf (loaded example_recXEST)) =
      ⟨some 0x41, some 0, some 34, some 4, some 38, some 4, some true, some (.log .info)⟩ := by
  decide

/-- The example of 46_record_forms.md R216: 20 bytes. -/
def example_recMSBF : List Byte := [0x44, 0x4C, 0x54, 0x01, 0x00, 0x00, 0x00, 0x00, 0x00, 0x00, 0x00, 0x00, 0x45, 0x43, 0x55,
  0x31, 0x02, 0x00, 0x00, 0x0B]
theorem test_step_recMSBF : errLook (nextOf (loaded example_recMSBF)) = firstFails .unsupportedByteOrder 16 := by decide

/-! ### The message classes: the registers each writes (95_test_vectors.md 2.6) -/

/-- The five registers a class writes. -/
structure ClassLook where
  msgInfo : Option Byte
  verbose : Option Bool
  mstp : Option (BitVec 3)
  mtin : Option (BitVec 4)
  mtype : Option MessageType
deriving DecidableEq

/-- Those registers after a class's instruction. -/
def classLook (i : Instr) : ClassLook :=
  let g := (stateOf (loaded []) (exec i (loaded []))).regs
  ⟨g.msgInfo, g.verbose, g.mstp, g.mtin, g.mtype⟩

/-- V-C3. -/
theorem test_class_mtLogFatal : classLook (.mtLogFatal false) =
    ⟨some 0x10, some false, some 0, some 1, some (.log .fatal)⟩ := by decide
/-- V-C5. -/
theorem test_class_mtLogError : classLook (.mtLogError true) =
    ⟨some 0x21, some true, some 0, some 2, some (.log .error)⟩ := by decide
/-- V-C6. -/
theorem test_class_mtLogWarn : classLook (.mtLogWarn false) =
    ⟨some 0x30, some false, some 0, some 3, some (.log .warn)⟩ := by decide
/-- V-C8. -/
theorem test_class_mtLogInfo : classLook (.mtLogInfo true) =
    ⟨some 0x41, some true, some 0, some 4, some (.log .info)⟩ := by decide
/-- V-C9. -/
theorem test_class_mtLogDebug : classLook (.mtLogDebug false) =
    ⟨some 0x50, some false, some 0, some 5, some (.log .debug)⟩ := by decide
/-- V-C10. -/
theorem test_class_mtLogVerbose : classLook (.mtLogVerbose false) =
    ⟨some 0x60, some false, some 0, some 6, some (.log .verbose)⟩ := by decide
/-- V-C2. -/
theorem test_class_mtLogRsv0 : classLook (.mtLogRsv0 true) =
    ⟨some 0x01, some true, some 0, some 0, some (.log .reserved)⟩ := by decide
/-- V-C11. -/
theorem test_class_mtLogRsv7 : classLook (.mtLogRsv7 false) =
    ⟨some 0x70, some false, some 0, some 7, some (.log .reserved)⟩ := by decide
/-- V-C12. -/
theorem test_class_mtLogRsvHi : classLook (.mtLogRsvHi 8 false) =
    ⟨some 0x80, some false, some 0, some 8, some (.log .reserved)⟩ := by decide
/-- V-C15. -/
theorem test_class_mtAppTrace : classLook (.mtAppTrace 1 false) =
    ⟨some 0x12, some false, some 1, some 1, some (.applicationTrace)⟩ := by decide
/-- V-C16. -/
theorem test_class_mtNetTrace : classLook (.mtNetTrace 0 false) =
    ⟨some 0x04, some false, some 2, some 0, some (.networkTrace)⟩ := by decide
/-- V-C18. -/
theorem test_class_mtControl : classLook (.mtControl 0 true) =
    ⟨some 0x07, some true, some 3, some 0, some (.control)⟩ := by decide
/-- V-C24. -/
theorem test_class_mtRsv : classLook (.mtRsv 15 7 true) =
    ⟨some 0xFF, some true, some 7, some 15, some (.reserved)⟩ := by decide

/-! ### The shared operations -/

/-- V-N1 to V-N9. -/
theorem test_nullTrim : nullTrim [0x41, 0x42, 0x43, 0x44, 0, 0] = [0x41, 0x42, 0x43, 0x44] ∧
    nullTrim [0, 0, 0, 0] = [0, 0, 0, 0] ∧ nullTrim [0x41, 0, 0x42, 0] = [0x41, 0, 0x42] ∧
    nullTrim [0x45, 0x43, 0x55, 0x31] = [0x45, 0x43, 0x55, 0x31] ∧ nullTrim [0x45, 0x32, 0, 0] = [0x45, 0x32] ∧
    nullTrim [0x41, 0, 0, 0] = [0x41] ∧ nullTrim [0, 0, 0, 0x31] = [0, 0, 0, 0x31] ∧
    nullTrim [0, 0x42, 0, 0] = [0, 0x42] ∧ nullTrim [0x20, 0, 0, 0] = [0x20] := by decide

/-- V-I1 to V-I9. -/
theorem test_field_readers : le32u ⟨0x60, 0xE3, 0x16, 0x00⟩ = 1500000 ∧ le32u ⟨4, 3, 2, 1⟩ = 16909060 ∧
    le32u ⟨0xFF, 0xFF, 0xFF, 0xFF⟩ = 4294967295 ∧ (le32s ⟨0xFF, 0xFF, 0xFF, 0xFF⟩).toInt = -1 ∧
    (le32s ⟨0xFF, 0xFF, 0xFF, 0x7F⟩).toInt = 2147483647 ∧ (le32s ⟨0, 0, 0, 0x80⟩).toInt = -2147483648 ∧
    be16u 0x00 0x0A = 10 ∧ be16u 0x01 0x02 = 258 ∧ be16u 0xFF 0xFF = 65535 := by decide

/-- V-T1 to V-T8. -/
theorem test_timestamp : timestamp 0 0 = (0, 0) ∧ timestamp 0 999999 = (0, 999999000) ∧ timestamp 0 1000000 = (1, 0) ∧
    timestamp 0 1500000 = (1, 500000000) ∧ timestamp 10 2000001 = (12, 1000) ∧
    timestamp 1 2147483647 = (2148, 483647000) ∧ timestamp 4294967295 0 = (4294967295, 0) ∧
    timestamp 4294967295 2147483647 = (4294969442, 483647000) := by decide

/-! ### Errors and their order (95_test_vectors.md 2.8) -/

/-- V-E1. -/
def buffer_e1 : List Byte := [0x44, 0x4C, 0x54, 0x02, 0x00, 0x00, 0x00, 0x00, 0x00, 0x00]
theorem test_e1 : errLook (nextOf (loaded buffer_e1)) = firstFails .truncatedInput 0 := by decide
/-- V-E2. -/
def buffer_e2 : List Byte := [0x44, 0x4C, 0x54, 0x02, 0x00, 0x00, 0x00, 0x00, 0x00, 0x00, 0x00, 0x00, 0x45,
  0x43, 0x55, 0x31]
theorem test_e2 : errLook (nextOf (loaded buffer_e2)) = firstFails .invalidMagic 0 := by decide
/-- V-E3. -/
def buffer_e3 : List Byte := [0x44, 0x4C, 0x54, 0x02, 0x00, 0x00, 0x00, 0x00, 0x00, 0x00, 0x00, 0x00, 0x45,
  0x43, 0x55, 0x31, 0x02, 0x00, 0x00, 0x0A, 0x00, 0x00, 0x00, 0x00, 0x00, 0x00]
theorem test_e3 : errLook (nextOf (loaded buffer_e3)) = firstFails .invalidMagic 0 := by decide
/-- V-E4. -/
def buffer_e4 : List Byte := [0x44, 0x4C, 0x54, 0x01, 0x00, 0x00, 0x00, 0x00, 0x00, 0x00, 0x00, 0x00, 0x45,
  0x43, 0x55, 0x31, 0x02, 0x00, 0x00]
theorem test_e4 : errLook (nextOf (loaded buffer_e4)) = firstFails .truncatedInput 16 := by decide
/-- V-E5. -/
def buffer_e5 : List Byte := [0x44, 0x4C, 0x54, 0x01, 0x00, 0x00, 0x00, 0x00, 0x00, 0x00, 0x00, 0x00, 0x45,
  0x43, 0x55, 0x31, 0x1F, 0x00, 0x00, 0x00]
theorem test_e5 : errLook (nextOf (loaded buffer_e5)) = firstFails .unsupportedByteOrder 16 := by decide
/-- V-E6. -/
def buffer_e6 : List Byte := [0x44, 0x4C, 0x54, 0x01, 0x00, 0x00, 0x00, 0x00, 0x00, 0x00, 0x00, 0x00, 0x45,
  0x43, 0x55, 0x31, 0x1D, 0x00, 0x00, 0x00]
theorem test_e6 : errLook (nextOf (loaded buffer_e6)) = firstFails .truncatedInput 20 := by decide
/-- V-E7. -/
def buffer_e7 : List Byte := [0x44, 0x4C, 0x54, 0x01, 0x00, 0x00, 0x00, 0x00, 0x00, 0x00, 0x00, 0x00, 0x45,
  0x43, 0x55, 0x31, 0x00, 0x00, 0x00, 0x00, 0x00, 0x00, 0x00, 0x00, 0x00]
theorem test_e7 : errLook (nextOf (loaded buffer_e7)) = firstFails .truncatedInput 20 := by decide
/-- V-E8. -/
def buffer_e8 : List Byte := [0x44, 0x4C, 0x54, 0x01, 0x00, 0x00, 0x00, 0x00, 0x00, 0x00, 0x00, 0x00, 0x45,
  0x43, 0x55, 0x31, 0x00, 0x00, 0x00, 0x00, 0x00, 0x00, 0x00, 0x00, 0x00, 0x00]
theorem test_e8 : errLook (nextOf (loaded buffer_e8)) = firstFails .payloadLengthOutOfRange 26 := by decide
/-- V-E9. -/
def buffer_e9 : List Byte := [0x44, 0x4C, 0x54, 0x01, 0x00, 0x00, 0x00, 0x00, 0x00, 0x00, 0x00, 0x00, 0x45,
  0x43, 0x55, 0x31, 0x00, 0x00, 0xFF, 0xFF, 0x00, 0x00, 0x00, 0x00, 0x00, 0x00]
theorem test_e9 : errLook (nextOf (loaded buffer_e9)) = firstFails .payloadLengthOutOfRange 26 := by decide
/-- V-E10. -/
def buffer_e10 : List Byte := [0x44, 0x4C, 0x54, 0x01, 0x00, 0x00, 0x00, 0x00, 0x00, 0x00, 0x00, 0x00, 0x45,
  0x43, 0x55, 0x31, 0x01, 0x00, 0x00, 0x14, 0x41, 0x00, 0x41, 0x50, 0x50, 0x31, 0x43, 0x54, 0x58]
theorem test_e10 : errLook (nextOf (loaded buffer_e10)) = firstFails .truncatedInput 20 := by decide
/-- V-E11. -/
def buffer_e11 : List Byte := [0x44, 0x4C, 0x54, 0x01, 0x00, 0x00, 0x00, 0x00, 0x00, 0x00, 0x00, 0x00, 0x45,
  0x43, 0x55, 0x31, 0x01, 0x00, 0x00, 0x14, 0x41, 0x00, 0x41, 0x50, 0x50, 0x31, 0x43, 0x54, 0x58, 0x31, 0x00,
  0x00, 0x00, 0x00, 0x00]
theorem test_e11 : errLook (nextOf (loaded buffer_e11)) = firstFails .truncatedInput 30 := by decide
/-- V-E12. -/
def buffer_e12 : List Byte := [0x44, 0x4C, 0x54, 0x01, 0x00, 0x00, 0x00, 0x00, 0x00, 0x00, 0x00, 0x00, 0x45,
  0x43, 0x55, 0x31, 0x0C, 0x00, 0x00, 0x12, 0xE0, 0xE1, 0xE2, 0xE3, 0xE4, 0xE5, 0xE6]
theorem test_e12 : errLook (nextOf (loaded buffer_e12)) = firstFails .truncatedInput 20 := by decide

/-- V-E13: a negative microseconds field is no error; the timestamp is NEG_USEC of the two fields (log 3). -/
def buffer_e13 : List Byte := [0x44, 0x4C, 0x54, 0x01, 0, 0, 0, 0, 0xFF, 0xFF, 0xFF, 0xFF, 0x45, 0x43, 0x55, 0x31, 0, 0, 0, 0x0A,
  0, 0, 0, 0, 0, 0]
theorem test_e13 : plainLook (nextOf (loaded buffer_e13)) = ⟨.done, 26, some 0, some 26, some 0, some false⟩ ∧
    (nextOf (loaded buffer_e13)).regs.senderLen = some 4 := by decide

/-- The buffer of program P2. -/
def bufferP2 : List Byte := [0x44, 0x4C, 0x54, 0x01, 0x04, 0x03, 0x02, 0x01, 0x3F, 0x42, 0x0F, 0x00, 0x41, 0x00, 0x42, 0x00,
  0x1D, 0x07, 0x00, 0x23, 0x58, 0x45, 0x43, 0x55, 0x00, 0x00, 0x00, 0x05, 0x00, 0x00, 0x10, 0x00,
  0x20, 0x02, 0x41, 0x50, 0x50, 0x00, 0x43, 0x54, 0x58, 0x31, 0x01, 0x02, 0x03, 0x04, 0x05, 0x06, 0x68, 0x69, 0x21]

/-- The Record of P2, as its end state lists it. -/
def recordP2 : Record where
  storage := ⟨⟨0x44, 0x4C, 0x54, 0x01⟩, 16909060, 999999000, ⟨12, 3⟩⟩
  standard := ⟨0x1D, 7, 35⟩
  extended := some ⟨0x20, 2, ⟨34, 3⟩, ⟨38, 4⟩⟩
  payload := ⟨48, 3⟩

/-- P2: one record with everything. -/
theorem test_p2 : (nextOf (loaded bufferP2)).out = [recordP2] ∧ (nextOf (loaded bufferP2)).status = .done ∧
    (nextOf (loaded bufferP2)).recIndex = 1 := by decide

/-- The truncation sweep of P2's record, at both ends of every range (V-W1 to V-W6). -/
theorem test_truncation_sweep :
    ([(1, 0), (15, 0), (16, 16), (19, 16), (20, 20), (31, 20), (32, 32), (41, 32), (42, 42), (47, 42)].all fun (l, o) =>
      errLook (nextOf (loaded (bufferP2.take l))) == firstFails .truncatedInput o) = true ∧
    errLook (nextOf (loaded (bufferP2.take 48))) = firstFails .payloadLengthOutOfRange 48 ∧
    errLook (nextOf (loaded (bufferP2.take 50))) = firstFails .payloadLengthOutOfRange 48 := by decide

/-- The two records of program P1. -/
def firstP1 : List Byte := [0x44, 0x4C, 0x54, 0x01, 0x01, 0x00, 0x00, 0x00, 0x00, 0x00, 0x00, 0x00, 0x45, 0x43, 0x55, 0x31,
  0x00, 0x00, 0x00, 0x0C, 0x00, 0x00, 0x00, 0x00, 0x00, 0x00, 0xAA, 0xBB]
def secondP1 : List Byte := [0x44, 0x4C, 0x54, 0x01, 0x02, 0x00, 0x00, 0x00, 0x60, 0xE3, 0x16, 0x00, 0x45, 0x32, 0x00, 0x00,
  0x00, 0x01, 0x00, 0x0A, 0x00, 0x00, 0x00, 0x00, 0x00, 0x00]

/-- The Records of P1, as the text of the program lists them. -/
def record0P1 : Record := ⟨⟨⟨0x44, 0x4C, 0x54, 0x01⟩, 1, 0, ⟨12, 4⟩⟩, ⟨0, 0, 12⟩, none, ⟨26, 2⟩⟩
def record1P1 : Record := ⟨⟨⟨0x44, 0x4C, 0x54, 0x01⟩, 3, 500000000, ⟨40, 2⟩⟩, ⟨0, 1, 10⟩, none, ⟨54, 0⟩⟩

/-- P1 loaded, and after its first record. -/
def stateP1 : State := loaded (firstP1 ++ secondP1)
def midP1 : State := nextOf stateP1

/-- V-H3 and V-H4. -/
theorem test_h4 : stateP1.status = .ready ∧ stateP1.len = 54 ∧ midP1.status = .ready ∧ midP1.cur = 28 ∧
    midP1.recIndex = 1 ∧ midP1.regs.recValid = true ∧ midP1.out = [record0P1] := by decide

/-- The state in the middle of P1, written down. -/
def midP1Lit : State := stateP1.commit record0P1 28
theorem test_mid_is_commit : midP1 = midP1Lit := by decide

/-- V-H5. -/
theorem test_h5 : (nextOf midP1Lit).status = .done ∧ (nextOf midP1Lit).cur = 54 ∧ (nextOf midP1Lit).recIndex = 2 ∧
    (nextOf midP1Lit).out = [record0P1, record1P1] := by decide

/-- V-H1, V-H10 and V-E15. -/
theorem test_commands : stateOf midP1Lit (hostCommand .reset midP1Lit) = State.resetOf vectorConfig ∧
    (stateOf midP1Lit (hostCommand (.load []) midP1Lit)).status = .done ∧
    (stateOf midP1Lit (hostCommand (.load []) midP1Lit)).len = 0 := by decide

/-- The host reads: no value before a commit (10_state.md R27), a number and the bytes of a view after it. -/
theorem test_host_reads : stateP1.readReg .counter = .error (.noValue .counter) ∧
    midP1Lit.readReg .payOff = .ok (.number 26) ∧ midP1Lit.readReg .mtype = .error (.noValue .mtype) ∧
    midP1Lit.readView ⟨26, 2⟩ = .ok [0xAA, 0xBB] ∧
    midP1Lit.readView ⟨54, 1⟩ = .error (.inl (.viewOutsideBuffer ⟨54, 1⟩)) := by decide

/-- A LOAD ends the validity of earlier views (70_reset_and_hazards.md R290): the payload's view, read before it, is
refused after a LOAD of the same bytes, and a view that no Record has is refused before it. -/
theorem test_stale_view : midP1Lit.readView ⟨27, 1⟩ = .error (.inr (.staleView ⟨27, 1⟩)) ∧
    stateP1.readView ⟨26, 2⟩ = .error (.inr (.staleView ⟨26, 2⟩)) := by decide

/-- The host's reads of the buffer by offset: P2's raw seconds and microseconds (41_storage_header.md R111), and the
places of its three extension fields (30_encoding.md R71). -/
theorem test_read_buffer : (loaded bufferP2).rawSeconds 0 = .ok 0x01020304 ∧
    (loaded bufferP2).rawMicros 0 = .ok 999999 ∧
    [ExtensionField.senderId, .sessionId, .timestamp].map (ExtensionField.offset 0x1D) = [some 20, some 24, some 28] ∧
    (ExtensionField.timestamp.offset 0x10, ExtensionField.senderId.offset 0x10) = (some 20, none) ∧
    (loaded bufferP2).readBuf 20 4 = .ok [0x58, 0x45, 0x43, 0x55] ∧
    (loaded bufferP2).readBuf 48 4 = .error (.viewOutsideBuffer ⟨48, 4⟩) := by decide

/-- withFetchWord puts the word where NEXT fetches it, in a state like that after a LOAD. -/
theorem test_withFetchWord : (State.reset.withFetchWord 32 0x0C00071D).fetchWord = [0x1D, 0x07, 0x00, 0x0C] ∧
    (State.reset.withFetchWord 8 0x12).status = .ready := by decide

/-- The first record of program P7 in the notation. -/
def lineP7 : RecordLine where
  form := .legal true false false false
  magic := none
  sec := 10
  usec := 250000
  ecu := .quoted [0x45, 0x43, 0x55, 0x31]
  flags := none
  ctr := 0
  len := none
  eid := none
  sid := none
  tms := none
  ext := some ⟨.cls 3 true, 1, .quoted [0x41, 0x50, 0x50, 0x31], .quoted [0x43, 0x54, 0x58, 0x31]⟩
  rsv := none
  pay := [0x4F, 0x4B]

/-- Its bytes, from the listing of P7. -/
def bytesP7 : List Byte := [0x44, 0x4C, 0x54, 0x01, 0x0A, 0x00, 0x00, 0x00, 0x90, 0xD0, 0x03, 0x00, 0x45, 0x43, 0x55, 0x31,
  0x01, 0x00, 0x00, 0x16, 0x41, 0x01, 0x41, 0x50, 0x50, 0x31, 0x43, 0x54, 0x58, 0x31, 0x00, 0x00,
  0x00, 0x00, 0x00, 0x00, 0x4F, 0x4B]

/-- P7's first line stands for its first 38 bytes. -/
theorem test_assemble : lineP7.assemble vectorConfig.magic = .ok bytesP7 := by decide

/-- A notation that gives a field its mnemonic lacks stands for nothing. -/
theorem test_assemble_rejects : ({ lineP7 with tms := some ⟨0, 0, 0, 0⟩ } : RecordLine).assemble vectorConfig.magic =
    .error .fieldsDisagree := by decide

/-! ### Witnesses: for each statement with hypotheses, states and operands that meet all of them together -/

theorem witness_DecodeOfEncode : (Instr.recMSBF 0x02 5 12).wellFormed = true ∧ (Instr.mtLogRsvHi 8 true).wellFormed = true ∧
    (Instr.mtRsv 0 4 false).wellFormed = true ∧ (Instr.recXEST 7 255 65535).wellFormed = true := by decide

theorem witness_EncodeOfDecode : decode .flags [0x1D, 0x07, 0x00, 0x23, 0x58] = .ok (.recXEST 0 7 35, [0x58]) ∧
    decode .msgInfo [0x8F] = .ok (.mtRsv 8 7 true, []) := by decide

theorem witness_StepRunsDecodedInstruction : (loaded bufferP2).status = .ready ∧
    decode .flags (loaded bufferP2).fetchWord = .ok (.recXEST 0 7 35, []) := by decide

/-- The decision list at a record of a loaded buffer. -/
def decisionOf (s : State) : Except Raise Nat := decisionLine s.cfg s.mem s.len s.cur s.flagsAt s.lengthAt

/-- Every line of the decision list is reached from a READY state: lines 1 to 9 and the commit. -/
theorem witness_PassFollowsDecisionList :
    (loaded (bufferP2.take 15)).status = .ready ∧ decisionOf (loaded (bufferP2.take 15)) = .error ⟨.truncatedInput, 0⟩ ∧
    decisionOf (loaded buffer_e2) = .error ⟨.invalidMagic, 0⟩ ∧
    decisionOf (loaded (bufferP2.take 19)) = .error ⟨.truncatedInput, 16⟩ ∧
    decisionOf (loaded buffer_e5) = .error ⟨.unsupportedByteOrder, 16⟩ ∧
    decisionOf (loaded (bufferP2.take 31)) = .error ⟨.truncatedInput, 20⟩ ∧
    decisionOf (loaded (bufferP2.take 41)) = .error ⟨.truncatedInput, 32⟩ ∧
    decisionOf (loaded (bufferP2.take 47)) = .error ⟨.truncatedInput, 42⟩ ∧
    decisionOf (loaded buffer_e8) = .error ⟨.payloadLengthOutOfRange, 26⟩ ∧
    decisionOf (loaded buffer_e9) = .error ⟨.payloadLengthOutOfRange, 26⟩ ∧
    (loaded bufferP2).status = .ready ∧ decisionOf (loaded bufferP2) = .ok 51 := by decide

/-- A legal form with a length of one less than the smallest, the illegal form, and a form on a short buffer. -/
theorem witness_FormsRaiseByDecisionList :
    (Instr.recXEST 0 7 31).space = .flags ∧ (Instr.recXEST 0 7 31).wordTail = headerTail 7 31 ∧
    decisionLine vectorConfig (loaded bufferP2).mem 51 0 (Instr.recXEST 0 7 31).opcodeByte 31 =
      .error ⟨.payloadLengthOutOfRange, 48⟩ ∧
    (Instr.recMSBF 0xFF 0 0).space = .flags ∧ (Instr.recMSBF 0xFF 0 0).wordTail = headerTail 0 0 ∧
    decisionLine vectorConfig (loaded bufferP2).mem 51 0 (Instr.recMSBF 0xFF 0 0).opcodeByte 0 =
      .error ⟨.unsupportedByteOrder, 16⟩ ∧
    decisionLine vectorConfig (loaded bufferP2).mem 41 0 (Instr.recX 0 0 26).opcodeByte 26 = .error ⟨.payloadLengthOutOfRange, 36⟩ ∧
    decisionLine vectorConfig (loaded bufferP2).mem 15 0 (Instr.recBase 0 0 0).opcodeByte 0 = .error ⟨.truncatedInput, 0⟩ := by
  decide

/-- A buffer of a form's smallest record: the pattern and zeros, `h` bytes. -/
def smallest (h : Nat) : State := loaded ([0x44, 0x4C, 0x54, 0x01] ++ List.replicate (h - 4) 0)

/-- Each H of PlainFormsCommit, with the smallest total_length and a buffer that ends with the record. -/
theorem witness_PlainFormsCommit : RecordFits (smallest 26) 10 26 ∧ RecordFits (smallest 30) 14 30 ∧
    RecordFits (smallest 34) 18 34 ∧ RecordFits (smallest 38) 22 38 := by
  unfold RecordFits
  decide

/-- Each H of ExtendedFormsCommit. -/
theorem witness_ExtendedFormsCommit : RecordFits (smallest 36) 20 36 ∧ RecordFits (smallest 40) 24 40 ∧
    RecordFits (smallest 44) 28 44 ∧ RecordFits (smallest 48) 32 48 := by
  unfold RecordFits
  decide

theorem witness_MsbfRaisesUnsupportedByteOrder : BitVec.getLsbD (0x02 : Byte) 1 = true ∧
    (smallest 20).mem.read4 (smallest 20).cur = (smallest 20).cfg.magic ∧ (smallest 20).cur + 20 ≤ (smallest 20).len := by
  decide

/-- Both clauses at their boundary: -1 and one more than remains; 0 and all that remains. -/
theorem witness_PayloadSliceIsExact : ((-1 : Int) < 0 ∨ (-1 : Int) > (38 : Nat) - (36 : Nat)) ∧
    ((3 : Int) < 0 ∨ (3 : Int) > (38 : Nat) - (36 : Nat)) ∧ (0 : Int) ≤ 0 ∧ (0 : Int) ≤ (36 : Nat) - (36 : Nat) ∧
    (0 : Int) ≤ 2 ∧ (2 : Int) ≤ (38 : Nat) - (36 : Nat) := by decide

/-- Both clauses at their boundary, for three fields and for none. -/
theorem witness_SkipExtensionsByCount :
    let n := (BitVec.getLsbD (0x1D : Byte) 2).toNat + (BitVec.getLsbD (0x1D : Byte) 3).toNat + (BitVec.getLsbD (0x1D : Byte) 4).toNat
    31 - 20 < 4 * n ∧ 4 * n ≤ 32 - 20 ∧ 4 * 0 ≤ 20 - 20 := by decide

/-- The first and the last byte of each class of MSTP = 0. -/
theorem witness_LogClassesOutput :
    ([(0x10, 0x10), (0x11, 0x10), (0x20, 0x20), (0x21, 0x20), (0x30, 0x30), (0x31, 0x30), (0x40, 0x40), (0x41, 0x40),
      (0x50, 0x50), (0x51, 0x50), (0x60, 0x60), (0x61, 0x60), (0x00, 0x00), (0x01, 0x00), (0x70, 0x70), (0x71, 0x70)].all
      fun (p : Byte × Byte) => p.1 &&& 0xFE == p.2) = true ∧
    (0x80 : Byte) &&& 0x8E = 0x80 ∧ (0xF1 : Byte) &&& 0x8E = 0x80 := by decide

/-- The first and the last byte of the other four classes. -/
theorem witness_OtherClassesOutput : (0x02 : Byte) &&& 0x0E = 0x02 ∧ (0xF3 : Byte) &&& 0x0E = 0x02 ∧
    (0x04 : Byte) &&& 0x0E = 0x04 ∧ (0xF5 : Byte) &&& 0x0E = 0x04 ∧ (0x06 : Byte) &&& 0x0E = 0x06 ∧
    (0xF7 : Byte) &&& 0x0E = 0x06 ∧ (0x08 : Byte) &&& 0x08 = 0x08 ∧ (0xFF : Byte) &&& 0x08 = 0x08 := by decide

/-- The example of `REC.X` with another message_info byte, before its one NEXT. -/
def withInfo (b : Byte) : State := loaded (example_recX.set 20 b)

/-- A committed record with that byte. -/
def commitsWithInfo (b : Byte) : Bool :=
  (withInfo b).status == .ready &&
    match step (withInfo b) with
    | .next t => t.regs.msgInfo == some b
    | .fault _ => false
    | .refused _ => false

/-- A committed record of each class of MSTP = 0, with the first or the last byte of the class. -/
theorem witness_CommittedLogClasses :
    ([0x10, 0x21, 0x30, 0x41, 0x50, 0x61, 0x00, 0x71, 0x80, 0xF1].all commitsWithInfo) = true := by decide

/-- A committed record of each other class, with the first and the last byte of the class. -/
theorem witness_CommittedOtherClasses :
    ([0x02, 0xF3, 0x04, 0xF5, 0x06, 0xF7, 0x08, 0xFF].all commitsWithInfo) = true := by decide

/-- The smallest record with an extended header and a message_info byte `b` of its own. -/
def extWithInfo (b : Byte) : State :=
  loaded ([0x44, 0x4C, 0x54, 0x01] ++ List.replicate 12 0 ++ [0x01, 0, 0, 20, b] ++ List.replicate 15 0)

/-- The smallest record with an extended header, of a reserved type (both ends of MSTP 4 to 7) and of one that is not. -/
theorem witness_ReservedTypeCommits : [0x08#8, 0xFF#8, 0x07#8].all (fun b =>
    decide ((extWithInfo b).status = .ready ∧ flagUEH (extWithInfo b).flagsAt = true ∧
      flagMSBF (extWithInfo b).flagsAt = false ∧
      (extWithInfo b).mem.read4 (extWithInfo b).cur = (extWithInfo b).cfg.magic ∧
      headerLen (extWithInfo b).flagsAt ≤ 16 + (extWithInfo b).lengthAt.toNat ∧
      (extWithInfo b).cur + 16 + (extWithInfo b).lengthAt.toNat ≤ (extWithInfo b).len ∧
      (extWithInfo b).mem.read 20 = b)) = true := by decide

theorem witness_CommitRunsMessageClass : (loaded bufferP2).status = .ready ∧
    step (loaded bufferP2) = .next ((loaded bufferP2).commit recordP2 51) ∧
    ((loaded bufferP2).commit recordP2 51).regs.msgInfo = some 0x20 := ⟨by decide, rfl, by decide⟩

theorem witness_TypeInfoUnusedOutsideLog : infoVerb 0x02 = infoVerb 0xF2 ∧ infoMstp 0x02 = infoMstp 0xF2 ∧
    infoMstp 0x02 ≠ 0#3 ∧ (0x02 : Byte) ≠ 0xF2 := by decide

/-- Both clauses: all zeros; the last non-zero byte first, in the middle, and last. -/
theorem witness_NullTrimKeepsUpToLastNonZero : (∀ b ∈ ([0, 0, 0, 0] : List Byte), b = 0#8) ∧
    ([([0x41, 0, 0, 0], 0), ([0x41, 0, 0x42, 0], 2), ([0, 0, 0, 0x31], 3)].all fun (p : List Byte × Nat) =>
      decide (p.2 < p.1.length) && p.1.getD p.2 0#8 != 0#8 &&
        (List.range 4).all fun j => !(decide (p.2 < j)) || p.1.getD j 0#8 == 0#8) = true := by decide

/-- Both ends of the non-negative range. -/
theorem witness_TimestampCarries : 0 ≤ (0#32).toInt ∧ 0 ≤ (0x7FFFFFFF#32).toInt := by decide
theorem witness_TimestampBounds : 0 ≤ (0x7FFFFFFF#32).toInt := by decide
/-- Both ends of the negative range. -/
theorem witness_NegativeMicrosecondsAreOpen : (0xFFFFFFFF#32).toInt < 0 ∧ (0x80000000#32).toInt < 0 := by decide

theorem witness_CommitAdvancesByRecordLength : midP1Lit.status = .ready ∧
    step midP1Lit = .next (midP1Lit.commit record1P1 54) ∧ (midP1Lit.commit record1P1 54).status ≠ .error :=
  ⟨by decide, rfl, by decide⟩

/-- A record with an extended header and one without, at the end of their buffers. -/
theorem witness_CommittedRecordIsLegal :
    decodeNext vectorConfig (loaded bufferP2).mem 51 0 = .ok (recordP2, 51) ∧
    decodeNext vectorConfig stateP1.mem 54 28 = .ok (record1P1, 54) := by decide
theorem witness_ViewsInsideRecord : decodeNext vectorConfig (loaded bufferP2).mem 51 0 = .ok (recordP2, 51) ∧
    recordP2.extended = some ⟨0x20, 2, ⟨34, 3⟩, ⟨38, 4⟩⟩ := by decide

/-- Both sides hold of a record that ends the buffer, and neither of the same record one byte short. -/
theorem witness_CommitsExactlyOnValidRecord :
    decodeNext vectorConfig stateP1.mem 54 28 = .ok (record1P1, 54) ∧
    ValidRecord vectorConfig.magic (stateP1.mem.readBytes 28 26) ∧ 28 + 26 ≤ 54 ∧
    decodeNext vectorConfig stateP1.mem 53 28 = .error ⟨.truncatedInput, 48⟩ := by
  unfold ValidRecord
  decide

/-- Two records; and none. -/
theorem witness_ExactConsumption : (∀ r ∈ [firstP1, secondP1], ValidRecord (loaded []).cfg.magic r) ∧
    [firstP1, secondP1].flatten.length < 2 ^ (loaded []).cfg.aw ∧
    ([] : List (List Byte)).flatten.length < 2 ^ (loaded []).cfg.aw := by
  unfold ValidRecord
  decide

/-- The second record of P1, alone in another buffer. -/
theorem witness_RecordDependsOnItsBytes : decodeNext vectorConfig stateP1.mem 54 28 = .ok (record1P1, 54) ∧
    (∀ k, k < 54 - 28 → (loaded secondP1).mem.read (0 + k) = stateP1.mem.read (28 + k)) ∧ 0 + (54 - 28) ≤ 26 := by decide

/-- Two buffers that agree below offset 28 only. -/
theorem witness_PassReadsBelowLen : (∀ a, a < 28 → (loaded firstP1).mem.read a = stateP1.mem.read a) ∧
    (loaded firstP1).mem ≠ stateP1.mem := by decide

/-- The middle of P1 and the same buffer with no record of the past. -/
theorem witness_StepIgnoresEarlierRecords :
    let s' : State := { midP1Lit with regs := RecRegs.noValue, out := [], recIndex := 9 }
    midP1Lit.status = .ready ∧ s'.status = .ready ∧ midP1Lit.cfg = s'.cfg ∧ midP1Lit.mem = s'.mem ∧
    midP1Lit.len = s'.len ∧ midP1Lit.cur = s'.cur ∧ step midP1Lit = .next (midP1Lit.commit record1P1 54) ∧
    step s' = .next (s'.commit record1P1 54) := ⟨by decide, by decide, rfl, rfl, rfl, rfl, rfl, rfl⟩

/-- What the clauses of ErrorCausesAndOffsets look at: `rem`, `n`, `u`, total_length, the pattern and the byte-order flag. -/
def causesAre (s : State) (rem n u l : Nat) (pattern msbf : Bool) : Bool :=
  s.status == .ready && s.len - s.cur == rem && nExt s.flagsAt == n && ueh s.flagsAt == u && s.lengthAt.toNat == l &&
    (s.mem.read4 s.cur == s.cfg.magic) == pattern && flagMSBF s.flagsAt == msbf

/-- A READY state for each clause, at both ends of its range. -/
theorem witness_ErrorCausesAndOffsets :
    (causesAre (loaded (bufferP2.take 15)) 15 0 0 0 true false &&
      causesAre (loaded buffer_e2) 16 0 0 0 false false &&
      causesAre (loaded (bufferP2.take 16)) 16 0 0 0 true false &&
      causesAre (loaded (bufferP2.take 19)) 19 3 1 0 true false &&
      causesAre (loaded buffer_e5) 20 3 1 0 true true &&
      causesAre (loaded (bufferP2.take 20)) 20 3 1 35 true false &&
      causesAre (loaded (bufferP2.take 31)) 31 3 1 35 true false &&
      causesAre (loaded (bufferP2.take 32)) 32 3 1 35 true false &&
      causesAre (loaded (bufferP2.take 41)) 41 3 1 35 true false &&
      causesAre (loaded (bufferP2.take 42)) 42 3 1 35 true false &&
      causesAre (loaded (bufferP2.take 47)) 47 3 1 35 true false &&
      causesAre (loaded buffer_e8) 26 0 0 0 true false &&
      causesAre (loaded (bufferP2.take 50)) 50 3 1 35 true false &&
      causesAre (loaded bufferP2) 51 3 1 35 true false) = true := by
  decide

/-- An error state: buffer V-E8 after its one NEXT. -/
def errorE8 : State := (loaded buffer_e8).raise ⟨.payloadLengthOutOfRange, 26⟩

theorem witness_ErrorsArePrecise : (loaded buffer_e8).status = .ready ∧ step (loaded buffer_e8) = .next errorE8 ∧
    errorE8.status = .error := ⟨by decide, rfl, by decide⟩

/-- An InvalidMagic (V-E2) and the smallest and the largest PAYLEN that is out of range (V-E8, V-E9). -/
theorem witness_HostReadsErrorRegisters :
    let badMagic := (loaded buffer_e2).raise ⟨.invalidMagic, 0⟩
    let tooLong := (loaded buffer_e9).raise ⟨.payloadLengthOutOfRange, 26⟩
    ((loaded buffer_e2).status = .ready ∧ step (loaded buffer_e2) = .next badMagic ∧
      badMagic.offendingPattern = .ok ⟨0x44, 0x4C, 0x54, 0x02⟩) ∧
    ((loaded buffer_e8).status = .ready ∧ step (loaded buffer_e8) = .next errorE8 ∧ errorE8.payLenAt 0 = .ok (-10)) ∧
    (loaded buffer_e9).status = .ready ∧ step (loaded buffer_e9) = .next tooLong ∧ tooLong.payLenAt 0 = .ok 65525 :=
  ⟨⟨by decide, rfl, by decide⟩, ⟨by decide, rfl, by decide⟩, by decide, rfl, by decide⟩

theorem witness_OnlyLoadAndResetLeaveError : errorE8.status = .error ∧ hostCommand .next errorE8 = .next errorE8 ∧
    hostCommand .reset errorE8 = .next (State.resetOf vectorConfig) ∧
    hostCommand (.load firstP1) errorE8 = .next (loaded firstP1) := ⟨by decide, rfl, rfl, rfl⟩

/-- An instance with one-bit offsets takes a buffer of one byte at most. -/
def tiny : State := State.resetOf { vectorConfig with aw := 1 }

theorem witness_LoadStartsRun : ([] : List Byte).length < 2 ^ tiny.cfg.aw ∧ ([7] : List Byte).length < 2 ^ tiny.cfg.aw := by
  decide
theorem witness_LoadRefusesLongBuffer : 2 ^ tiny.cfg.aw ≤ ([7, 8] : List Byte).length := by decide

/-- Every row of the transition table: RESET, LOAD of nothing and of bytes, NEXT in each STATUS. -/
theorem witness_StatusTransitions : hostCommand .reset midP1Lit = .next (State.resetOf vectorConfig) ∧
    hostCommand (.load []) midP1Lit = .next (loaded []) ∧ hostCommand (.load firstP1) midP1Lit = .next (loaded firstP1) ∧
    hostCommand .next stateP1 = .next midP1Lit ∧ hostCommand .next midP1Lit = .next (midP1Lit.commit record1P1 54) ∧
    hostCommand .next (loaded buffer_e8) = .next errorE8 ∧ hostCommand .next (loaded []) = .next (loaded []) ∧
    hostCommand .next errorE8 = .next errorE8 ∧
    hostCommand .next (State.resetOf vectorConfig) = .next (State.resetOf vectorConfig) :=
  ⟨rfl, rfl, rfl, rfl, rfl, rfl, rfl, rfl, rfl⟩

theorem witness_LoadIsRestartable : midP1Lit.cfg = errorE8.cfg ∧ midP1Lit ≠ errorE8 := by decide

/-! Three states with the invariant: before a record, after one without an extended header, after one with it, and after
an error. -/

theorem witness_inv_loaded : stateP1.Inv where
  aw_pos := by decide
  len_lt := by decide
  mem_wf := by decide
  mem_below := by decide
  cur_le := by decide
  out_length := rfl
  out_decodes := rfl
  regs_window := rfl
  idle_empty := by decide
  ready_cur := by decide
  done_cur := by decide
  no_error := by decide
  some_error := fun h => absurd h (by decide)

theorem witness_inv_plain : midP1Lit.Inv where
  aw_pos := by decide
  len_lt := by decide
  mem_wf := by decide
  mem_below := by decide
  cur_le := by decide
  out_length := rfl
  out_decodes := ⟨28, by decide, rfl⟩
  regs_window := rfl
  idle_empty := by decide
  ready_cur := by decide
  done_cur := by decide
  no_error := by decide
  some_error := fun h => absurd h (by decide)

theorem witness_inv_extended : ((loaded bufferP2).commit recordP2 51).Inv where
  aw_pos := by decide
  len_lt := by decide
  mem_wf := by decide
  mem_below := by decide
  cur_le := by decide
  out_length := rfl
  out_decodes := ⟨51, by decide, rfl⟩
  regs_window := rfl
  idle_empty := by decide
  ready_cur := by decide
  done_cur := by decide
  no_error := by decide
  some_error := fun h => absurd h (by decide)

theorem witness_inv_error : errorE8.Inv where
  aw_pos := by decide
  len_lt := by decide
  mem_wf := by decide
  mem_below := by decide
  cur_le := by decide
  out_length := rfl
  out_decodes := rfl
  regs_window := rfl
  idle_empty := by decide
  ready_cur := by decide
  done_cur := by decide
  no_error := by decide
  some_error := fun _ => ⟨⟨.payloadLengthOutOfRange, 26⟩, by decide, rfl, rfl, rfl⟩

theorem witness_RunEnds : stateP1.Inv ∧ errorE8.Inv := ⟨witness_inv_loaded, witness_inv_error⟩

/-- A form and a class that answer a next state. -/
theorem witness_NoInstructionWritesBuffer : exec (.recBase 0 0 12) stateP1 = .next midP1Lit ∧
    exec (.mtControl 0 true) midP1Lit = .next (midP1Lit.outputClass 0 3 true .control) := ⟨rfl, rfl⟩

/-- Both cases: a commit, and an error. -/
theorem witness_StepOnlyAppendsToOut : step stateP1 = .next midP1Lit ∧ step (loaded buffer_e8) = .next errorE8 := ⟨rfl, rfl⟩

theorem witness_StepKeepsInv : stateP1.Inv ∧ step stateP1 = .next midP1Lit := ⟨witness_inv_loaded, rfl⟩

theorem witness_CommandsEstablishInv : Command.reset ≠ .next ∧ Command.load firstP1 ≠ .next ∧ errorE8.cfg.legal = true ∧
    hostCommand .reset errorE8 = .next (State.resetOf vectorConfig) ∧
    hostCommand (.load firstP1) errorE8 = .next (loaded firstP1) := ⟨by decide, by decide, by decide, rfl, rfl⟩

/-- The three cases: REC_VALID 0; REC_VALID 1 without and with an extended header. -/
theorem witness_RegistersThatHoldAValue : (stateP1.Inv ∧ stateP1.regs.recValid = false) ∧
    (midP1Lit.Inv ∧ midP1Lit.regs.recValid = true ∧ midP1Lit.regs.extPresent = some false) ∧
    ((loaded bufferP2).commit recordP2 51).Inv ∧ ((loaded bufferP2).commit recordP2 51).regs.recValid = true ∧
    ((loaded bufferP2).commit recordP2 51).regs.extPresent = some true :=
  ⟨⟨witness_inv_loaded, by decide⟩, ⟨witness_inv_plain, by decide, by decide⟩, witness_inv_extended, by decide, by decide⟩

theorem witness_ShownViewsAreReadable : ((loaded bufferP2).commit recordP2 51).Inv ∧
    recordP2 ∈ ((loaded bufferP2).commit recordP2 51).out ∧ recordP2.extended = some ⟨0x20, 2, ⟨34, 3⟩, ⟨38, 4⟩⟩ :=
  ⟨witness_inv_extended, by decide, rfl⟩

/-- Each command that ends the validity of views, at a state in which one can be read. -/
theorem witness_LoadAndResetEndViews : midP1Lit.readView ⟨26, 2⟩ = .ok [0xAA, 0xBB] ∧
    hostCommand .reset midP1Lit = .next (State.resetOf vectorConfig) ∧
    hostCommand (.load firstP1) midP1Lit = .next (loaded firstP1) := ⟨by decide, rfl, rfl⟩

/-- A buffer with one record and one byte more, after the first record. -/
def oneByteMore : State := (loaded (firstP1 ++ [0x44])).commit record0P1 28

/-- A step that commits and a step that raises; the view and the raw fields can be read before each. -/
theorem witness_StepKeepsViews : midP1Lit.readView ⟨26, 2⟩ = .ok [0xAA, 0xBB] ∧
    step midP1Lit = .next (midP1Lit.commit record1P1 54) ∧ oneByteMore.readView ⟨26, 2⟩ = .ok [0xAA, 0xBB] ∧
    step oneByteMore = .next (oneByteMore.raise ⟨.truncatedInput, 28⟩) := ⟨by decide, rfl, by decide, rfl⟩

theorem witness_AssembledLineIsValidRecord : lineP7.magic = none ∧ lineP7.flags = none ∧ lineP7.len = none ∧
    lineP7.assemble vectorConfig.magic = .ok bytesP7 := by decide

end Sys2Proof.Tests
end

/-! The field readers of 00_scope.md R14 as numbers. A reader concatenates bytes, and concatenation is
positional notation: what stands to the left weighs `2^w` more, `w` the width of what stands to its right. -/

namespace Sys2Proof

/-- Concatenation as positional notation, for every width. -/
theorem toNat_append_eq_add {v w : Nat} (x : BitVec v) (y : BitVec w) :
    (x ++ y).toNat = 2 ^ w * x.toNat + y.toNat := by
  rw [BitVec.toNat_append, Nat.shiftLeft_eq, Nat.mul_comm, Nat.two_pow_add_eq_or_of_lt y.isLt]

theorem be16u_toNat (s0 s1 : Byte) : (be16u s0 s1).toNat = 2 ^ 8 * s0.toNat + s1.toNat :=
  toNat_append_eq_add s0 s1

namespace Machine

/-- Most significant byte first, each `++` is one step of Horner's scheme; multiplied out it is R14's sum. -/
theorem le32u_toNat (s : Bytes4) :
    (le32u s).toNat = s.b0.toNat + 2 ^ 8 * s.b1.toNat + 2 ^ 16 * s.b2.toNat + 2 ^ 24 * s.b3.toNat := by
  have horner : (le32u s).toNat =
      2 ^ 8 * (2 ^ 8 * (2 ^ 8 * s.b3.toNat + s.b2.toNat) + s.b1.toNat) + s.b0.toNat := by
    simp only [le32u, toNat_append_eq_add]
  omega

/-- `sext_32` of a 32-bit number is the number: LE32s holds LE32u's bits, read as two's complement. -/
theorem le32s_eq_le32u (s : Bytes4) : le32s s = le32u s := BitVec.signExtend_eq (le32u s)

theorem le32s_toInt (s : Bytes4) : (le32s s).toInt =
    if (le32u s).toNat < 2 ^ 31 then ((le32u s).toNat : Int) else ((le32u s).toNat : Int) - 2 ^ 32 := by
  have halved : 2 * (le32u s).toNat < 2 ^ 32 ↔ (le32u s).toNat < 2 ^ 31 := by omega
  rw [le32s_eq_le32u, BitVec.toInt_eq_toNat_cond]
  simp only [halved, Nat.cast_pow, Nat.cast_ofNat]

/-- Settles O5: the value of each of the three readers. -/
theorem fieldReadersAsNumbers : Obligations.FieldReadersAsNumbers :=
  ⟨le32u_toNat, le32s_toInt, be16u_toNat⟩

end Machine

end Sys2Proof

/-! NULLTRIM (40_nulltrim_text.md R100). `lastNonZero` looks at the tail first: only when nothing in the tail is
non-zero does the head decide. Two facts say what it answers, 0 and `k + 1`, and `nullTrim` follows its answer. -/

namespace Sys2Proof.Machine

theorem lastNonZero_cons_of_tail_zero (b : Byte) {bs : List Byte} (h : lastNonZero bs = 0) :
    lastNonZero (b :: bs) = if b = 0#8 then 0 else 1 := by
  simp only [lastNonZero, h]

theorem lastNonZero_cons_of_tail_succ (b : Byte) {bs : List Byte} {k : Nat} (h : lastNonZero bs = k + 1) :
    lastNonZero (b :: bs) = k + 2 := by
  simp only [lastNonZero, h]

theorem lastNonZero_of_all_zero {f : List Byte} (h : ∀ b ∈ f, b = 0#8) : lastNonZero f = 0 := by
  induction f with
  | nil => rfl
  | cons b bs ih =>
    obtain ⟨head, tail⟩ := List.forall_mem_cons.mp h
    rw [lastNonZero_cons_of_tail_zero b (ih tail), if_pos head]

/-- The index moves with the list: at 0 the tail is all zero and the head decides, at `k + 1` the tail has the index
`k` of its own. -/
theorem lastNonZero_of_last_index {f : List Byte} {k : Nat} (inside : k < f.length) (nonzero : f.getD k 0#8 ≠ 0#8)
    (after : ∀ j, k < j → j < f.length → f.getD j 0#8 = 0#8) : lastNonZero f = k + 1 := by
  induction f generalizing k with
  | nil => exact absurd inside (Nat.not_lt_zero k)
  | cons b bs ih =>
    have after_tail (j : Nat) (later : k < j + 1) (hj : j < bs.length) : bs.getD j 0#8 = 0#8 :=
      after (j + 1) later (Nat.succ_lt_succ hj)
    cases k with
    | zero =>
      have tail_zero : ∀ c ∈ bs, c = 0#8 := by
        intro c hc
        obtain ⟨j, hj, rfl⟩ := List.getElem_of_mem hc
        simpa [hj] using after_tail j (Nat.succ_pos j) hj
      have head_nonzero : b ≠ 0#8 := nonzero
      rw [lastNonZero_cons_of_tail_zero b (lastNonZero_of_all_zero tail_zero), if_neg head_nonzero]
    | succ k =>
      have tail_index : lastNonZero bs = k + 1 :=
        ih (Nat.lt_of_succ_lt_succ inside) nonzero fun j later => after_tail j (Nat.succ_lt_succ later)
      exact lastNonZero_cons_of_tail_succ b tail_index

theorem nullTrim_of_lastNonZero_zero {f : List Byte} (h : lastNonZero f = 0) : nullTrim f = f := by
  simp only [nullTrim, h]

theorem nullTrim_of_lastNonZero_succ {f : List Byte} {k : Nat} (h : lastNonZero f = k + 1) :
    nullTrim f = f.take (k + 1) := by
  simp only [nullTrim, h]

/-- Settles O27: the two answers of `lastNonZero` are the two cases of R100. -/
theorem nullTrimKeepsUpToLastNonZero : Obligations.NullTrimKeepsUpToLastNonZero := fun _ =>
  ⟨fun all_zero => nullTrim_of_lastNonZero_zero (lastNonZero_of_all_zero all_zero),
   fun _ inside nonzero after => nullTrim_of_lastNonZero_succ (lastNonZero_of_last_index inside nonzero after)⟩

end Sys2Proof.Machine

/-! TIMESTAMP (41_storage_header.md R113). The sign of the microseconds field picks the branch of `timestamp`; for a
non-negative one both numbers fit the widths they are written to: 33 bits of 64, and less than `10^9 < 2^30`. -/

namespace Sys2Proof.Machine

theorem timestamp_of_nonneg (seconds : BitVec 32) {micros : BitVec 32} (nonneg : 0 ≤ micros.toInt) :
    timestamp seconds micros =
      (BitVec.ofNat 64 (seconds.toNat + micros.toNat / 1000000), BitVec.ofNat 30 (micros.toNat % 1000000 * 1000)) := by
  have sign_clear : ¬ micros.msb = true := by
    rw [BitVec.msb_eq_toInt, decide_eq_true_iff]
    exact not_lt.mpr nonneg
  exact if_neg sign_clear

/-- Two 32-bit numbers, one of them divided, add up to less than `2^33`. -/
theorem secondsWithCarry_lt (seconds micros : BitVec 32) : seconds.toNat + micros.toNat / 1000000 < 2 ^ 64 := by
  have seconds_lt := seconds.isLt
  have micros_lt := micros.isLt
  omega

/-- What is left of a second, in nanoseconds, is less than `10^9`. -/
theorem subsecondNanos_lt (micros : BitVec 32) : micros.toNat % 1000000 * 1000 < 2 ^ 30 := by
  omega

/-- Settles O29: neither number wraps in its register, so each is the value R113 gives. -/
theorem timestampCarries : Obligations.TimestampCarries := by
  intro seconds micros nonneg
  rw [timestamp_of_nonneg seconds nonneg]
  simp only [BitVec.toNat_ofNat]
  exact ⟨Nat.mod_eq_of_lt (secondsWithCarry_lt seconds micros), Nat.mod_eq_of_lt (subsecondNanos_lt micros)⟩

end Sys2Proof.Machine

/-! SKIPEXT (43_extension_skipper.md R130). The three presence flags are bits of the flags byte, so the stage is one
Take of four bytes for each of them that is set; what a Take can do says the rest. -/

namespace Sys2Proof.Machine

/-- The presence flags by their bit numbers, as R130 lists them. -/
theorem nExt_eq_count_bits (f : Byte) :
    nExt f = (f.getLsbD 2).toNat + (f.getLsbD 3).toNat + (f.getLsbD 4).toNat := rfl

theorem skipExt_eq_take (f : Byte) (len scan : Nat) : skipExt f len scan = take len scan (4 * nExt f) := rfl

/-- Settles O18: the two outcomes of the stage's Take, with the count read off the flags byte. -/
theorem skipExtensionsByCount : Obligations.SkipExtensionsByCount := by
  intro f len scan n
  have one_take : skipExt f len scan = take len scan (4 * n) := by
    rw [skipExt_eq_take, nExt_eq_count_bits]
  constructor
  · intro too_few
    rw [one_take]
    exact (take_error_iff len scan (4 * n) _).mpr ⟨too_few, rfl⟩
  · intro enough
    rw [one_take]
    exact (take_ok_iff len scan (4 * n) _).mpr ⟨enough, rfl⟩

end Sys2Proof.Machine

/-! One NEXT is one DECODE_NEXT (47_record_stream.md R224). A decoded form's opcode byte and word tail are the bytes it
was decoded from, so its pass runs on the standard header that stands in the buffer. -/

namespace Sys2Proof

/-- A flags byte by its ignored bits and its five flags. -/
theorem flagsByte_of_flags : ∀ f : Byte,
    flagsByte (flagIgnored f)
      (BitVec.ofBool (flagWTMS f) ++ BitVec.ofBool (flagWSID f) ++ BitVec.ofBool (flagWEID f) ++
        BitVec.ofBool (flagMSBF f) ++ BitVec.ofBool (flagUEH f)) = f := by decide

theorem decodeForm_space (f ctr : Byte) (len : BitVec 16) : (decodeForm f ctr len).space = .flags := by
  unfold decodeForm
  split
  · rfl
  · split <;> rfl

theorem decodeForm_wordTail (f ctr : Byte) (len : BitVec 16) :
    (decodeForm f ctr len).wordTail = headerTail ctr len := by
  unfold decodeForm
  split
  · rfl
  · split <;> rfl

/-- The flags that select a row are the row's low bits. -/
theorem decodeForm_opcodeByte (f ctr : Byte) (len : BitVec 16) : (decodeForm f ctr len).opcodeByte = f := by
  have parts := flagsByte_of_flags f
  unfold decodeForm
  split
  · rfl
  · next little =>
    rw [Bool.not_eq_true] at little
    rw [little] at parts
    split <;> next tms sid eid ueh =>
      rw [tms, sid, eid, ueh] at parts
      exact parts

namespace Machine

theorem exec_decodeForm (f ctr : Byte) (len : BitVec 16) (s : State) :
    exec (decodeForm f ctr len) s = .next (s.runRecord f ctr len) := by
  rw [exec_form _ (decodeForm_space f ctr len) ctr len (decodeForm_wordTail f ctr len), decodeForm_opcodeByte]

theorem step_of_ready {s : State} (ready : s.status = .ready) :
    step s = .next (s.endPass (decodeNext s.cfg s.mem s.len s.cur)) := by
  by_cases short : s.len - s.cur < 20
  · have no_word : s.fetchWord = [] := by rw [State.fetchWord_eq, if_pos short]
    simp only [step, ready, no_word, decode, State.endUnselected]
  · have word := s.fetchWord_eq
    rw [if_neg short] at word
    simp only [step, ready, word, decode, exec_decodeForm, State.runRecord]
    rw [decodePass_eq_decodeNext _ _ _ _ _ _ _ rfl rfl rfl]

/-- A step from READY commits one Record or enters ERROR. -/
theorem step_of_ready_cases {s s' : State} (ready : s.status = .ready) (stepped : step s = .next s') :
    (∃ r scan, s' = s.commit r scan) ∨ ∃ e, s' = s.raise e := by
  rw [step_of_ready ready] at stepped
  obtain rfl := Host.Outcome.next.inj stepped
  cases decodeNext s.cfg s.mem s.len s.cur with
  | ok p => exact .inl ⟨p.1, p.2, rfl⟩
  | error e => exact .inr ⟨e, rfl⟩

theorem State.commit_status_ne_error (s : State) (r : Record) (scan : Nat) : (s.commit r scan).status ≠ .error := by
  rw [State.commit_status]
  split <;> exact Status.noConfusion

/-! A record that fits (60_exceptions.md R246, line 10) passes every check of the nine stages. -/

theorem headerLen_eq (f : Byte) : headerLen f = 26 + 4 * nExt f + 10 * ueh f := by
  simp only [headerLen, rsvOffset, extOffset]
  omega

/-- The Record a pass at CUR answers where the record there fits. -/
def fittingRecord (s : State) : Record :=
  recordAt s s.flagsAt (s.mem.read (s.cur + 17)) s.lengthAt
    (extendedHeaderAt s.mem s.flagsAt (s.cur + 20 + 4 * nExt s.flagsAt)) (headerLen s.flagsAt)

theorem decodeNext_of_fits {s : State} (little : flagMSBF s.flagsAt = false)
    (fits : RecordFits s s.lengthAt (headerLen s.flagsAt)) :
    decodeNext s.cfg s.mem s.len s.cur = .ok (fittingRecord s, s.cur + 16 + s.lengthAt.toNat) := by
  obtain ⟨magic, header_fits, payload_fits⟩ := fits
  have with_ext := (headerLen_cases s.flagsAt).1
  have header_len := headerLen_eq s.flagsAt
  have head : headStages s.cfg s.mem s.len s.cur = .ok (storageAt s.mem s.cur, s.cur + 20) := by
    rw [headStages_eq, if_neg (by omega), if_neg (not_not_intro magic), if_neg (by omega)]
  have ext_fits : ¬ (flagUEH s.flagsAt = true ∧ s.len - s.cur < 30 + 4 * nExt s.flagsAt) := by
    rintro ⟨ueh_set, too_short⟩
    have := with_ext ueh_set
    omega
  have body := bodyStages_eq s.mem s.len s.cur (storageAt s.mem s.cur)
    ⟨s.flagsAt, s.mem.read (s.cur + 17), s.lengthAt⟩ (by omega)
  simp only at body
  rw [if_neg (by rw [little]; exact Bool.false_ne_true), if_neg (by omega), if_neg ext_fits, if_neg (by omega),
    if_neg (by omega)] at body
  rw [decodeNext, head]
  exact body

theorem step_of_fits {s : State} (ready : s.status = .ready) (little : flagMSBF s.flagsAt = false)
    (fits : RecordFits s s.lengthAt (headerLen s.flagsAt)) :
    step s = .next (s.commit (fittingRecord s) (s.cur + 16 + s.lengthAt.toNat)) := by
  rw [step_of_ready ready, decodeNext_of_fits little fits, State.endPass_ok]

theorem fittingRecord_extended {s : State} (ueh_set : flagUEH s.flagsAt = true) :
    (fittingRecord s).extended = some (extendedAt s (20 + 4 * nExt s.flagsAt)) := by
  simp only [fittingRecord, recordAt, extendedHeaderAt, ueh_set, if_true, extendedAt, Nat.add_assoc]

end Machine

end Sys2Proof

/-! CLASSIFY (44_extended_header.md R142). A mask keeps some fields of the byte whole, so what it selects fixes those
fields; MSTP picks the MessageType, and MTIN only the level of Log (R144). -/

namespace Sys2Proof

theorem infoVerb_toNat (b : Byte) : (infoVerb b).toNat = b.toNat % 2 := by
  simp only [infoVerb, BitVec.getLsbD, Nat.toNat_testBit, pow_zero, Nat.div_one]

theorem infoMstp_toNat (b : Byte) : (infoMstp b).toNat = b.toNat / 2 % 8 := by
  simp only [infoMstp, BitVec.extractLsb'_toNat, Nat.shiftRight_eq_div_pow, pow_one, Nat.reducePow]

/-- Nothing is left above bits 7:4 of a byte. -/
theorem infoMtin_toNat (b : Byte) : (infoMtin b).toNat = b.toNat / 16 := by
  have b_lt := b.isLt
  simp only [infoMtin, BitVec.extractLsb'_toNat, Nat.shiftRight_eq_div_pow, Nat.reducePow]
  omega

theorem infoMstp_and (a b : Byte) : infoMstp (a &&& b) = infoMstp a &&& infoMstp b := BitVec.extractLsb'_and

theorem infoMtin_and (a b : Byte) : infoMtin (a &&& b) = infoMtin a &&& infoMtin b := BitVec.extractLsb'_and

/-- A mask with bits 3:1 set keeps MSTP. -/
theorem infoMstp_of_selected {b mask pattern : Byte} (keeps : infoMstp mask = BitVec.allOnes 3)
    (selected : b &&& mask = pattern) : infoMstp b = infoMstp pattern := by
  rw [← selected, infoMstp_and, keeps, BitVec.and_allOnes]

/-- A mask with bits 7:4 set keeps MTIN. -/
theorem infoMtin_of_selected {b mask pattern : Byte} (keeps : infoMtin mask = BitVec.allOnes 4)
    (selected : b &&& mask = pattern) : infoMtin b = infoMtin pattern := by
  rw [← selected, infoMtin_and, keeps, BitVec.and_allOnes]

namespace Machine

theorem level_of_high_bit : ∀ mtin : BitVec 4, mtin &&& 8#4 = 8#4 → level mtin = .reserved := by decide

theorem four_le_of_high_bit : ∀ mstp : BitVec 3, mstp &&& 4#3 = 4#3 → 4 ≤ mstp.toNat := by decide

theorem messageType_of_high_bit {mstp : BitVec 3} (mtin : BitVec 4) (high : mstp &&& 4#3 = 4#3) :
    messageType mstp mtin = .reserved := by
  have four_le := four_le_of_high_bit mstp high
  unfold messageType
  split
  case h_5 => rfl
  all_goals omega

theorem messageType_outside_log {mstp : BitVec 3} (not_log : mstp ≠ 0#3) (i j : BitVec 4) :
    messageType mstp i = messageType mstp j := by
  have nonzero : mstp.toNat ≠ 0 := fun zero => not_log (BitVec.eq_of_toNat_eq zero)
  unfold messageType
  split
  · next zero => exact absurd zero nonzero
  all_goals rfl

/-- A mask that keeps MSTP and MTIN selects bytes of one MessageType. -/
theorem classify_mtype_of_fields_selected {b mask pattern : Byte} (keeps_mstp : infoMstp mask = BitVec.allOnes 3)
    (keeps_mtin : infoMtin mask = BitVec.allOnes 4) (selected : b &&& mask = pattern) :
    (classify b).mtype = (classify pattern).mtype := by
  simp only [classify, infoMstp_of_selected keeps_mstp selected, infoMtin_of_selected keeps_mtin selected]

/-- Outside Log a mask that keeps MSTP is enough. -/
theorem classify_mtype_of_mstp_selected {b mask pattern : Byte} (keeps_mstp : infoMstp mask = BitVec.allOnes 3)
    (not_log : infoMstp pattern ≠ 0#3) (selected : b &&& mask = pattern) :
    (classify b).mtype = (classify pattern).mtype := by
  simp only [classify, infoMstp_of_selected keeps_mstp selected]
  exact messageType_outside_log not_log _ _

/-- Settles O25: MTYPE is the only other output that reads MTIN, and outside Log it does not. -/
theorem typeInfoUnusedOutsideLog : Obligations.TypeInfoUnusedOutsideLog := by
  intro a b same_verb same_mstp not_log
  simp only [classify, same_verb, same_mstp]
  rw [messageType_outside_log (same_mstp ▸ not_log)]

/-- Settles O26: the model's cases on the fields, with the fields read as numbers. -/
theorem classifyByCases : Obligations.ClassifyByCases := by
  intro b
  refine ⟨infoVerb_toNat b, infoMstp_toNat b, infoMtin_toNat b, ?_⟩
  rw [← infoMstp_toNat, ← infoMtin_toNat]
  rfl

/-! What a committed record shows of its message_info byte: a Record's registers hold CLASSIFY of the byte, and a step
that leaves a value in MSG_INFO has committed one. -/

theorem classRegs_of_committed {s s' : State} {b : Byte} (ready : s.status = .ready) (stepped : step s = .next s')
    (info : s'.regs.msgInfo = some b) :
    s'.regs.verbose = some (classify b).verbose ∧ s'.regs.mstp = some (classify b).mstp ∧
    s'.regs.mtin = some (classify b).mtin ∧ s'.regs.mtype = some (classify b).mtype := by
  obtain ⟨r, scan, rfl⟩ | ⟨e, rfl⟩ := step_of_ready_cases ready stepped
  · rw [State.commit_regs, RecRegs.ofRecord_msgInfo, Option.map_eq_some_iff] at info
    obtain ⟨x, extended, rfl⟩ := info
    simp only [State.commit_regs, RecRegs.ofRecord_verbose, RecRegs.ofRecord_mstp, RecRegs.ofRecord_mtin,
      RecRegs.ofRecord_mtype, extended, Option.map_some, and_self]
  · rw [State.raise_regs] at info
    exact absurd info (Option.some_ne_none b).symm

/-- A class is a statement about CLASSIFY alone. -/
theorem committedClass_of_mtype {mask pattern : Byte} {t : MessageType}
    (class_type : ∀ b : Byte, b &&& mask = pattern → (classify b).mtype = t) : CommittedClass mask pattern t := by
  intro s s' b ready stepped info selected
  rw [← class_type b selected]
  exact classRegs_of_committed ready stepped info

/-- The classes `b & 0xFE = pattern`: all of the byte but VERB is fixed. -/
theorem committedClass_of_mask_FE (pattern : Byte) : CommittedClass 0xFE#8 pattern (classify pattern).mtype :=
  committedClass_of_mtype fun _ => classify_mtype_of_fields_selected rfl rfl

/-- The classes `b & 0x0E = pattern` outside Log. -/
theorem committedClass_of_mask_0E {pattern : Byte} (not_log : infoMstp pattern ≠ 0#3) :
    CommittedClass 0x0E#8 pattern (classify pattern).mtype :=
  committedClass_of_mtype fun _ => classify_mtype_of_mstp_selected rfl not_log

/-- `b & 0x8E = 0x80`: MSTP is 0 and MTIN at least 8, above every level. -/
theorem classify_mtype_of_rsvHi {b : Byte} (selected : b &&& 0x8E#8 = 0x80#8) :
    (classify b).mtype = .log .reserved := by
  have mstp : infoMstp b = 0#3 := infoMstp_of_selected rfl selected
  have mtin : level (infoMtin b) = .reserved :=
    level_of_high_bit _ ((infoMtin_and b 0x8E#8).symm.trans (congrArg infoMtin selected))
  calc (classify b).mtype = messageType 0#3 (infoMtin b) := congrArg (messageType · _) mstp
    _ = .log (level (infoMtin b)) := rfl
    _ = .log .reserved := congrArg _ mtin

/-- `b & 0x08 = 0x08`: MSTP is at least 4. -/
theorem classify_mtype_of_rsv {b : Byte} (selected : b &&& 0x08#8 = 0x08#8) : (classify b).mtype = .reserved :=
  messageType_of_high_bit _ ((infoMstp_and b 0x08#8).symm.trans (congrArg infoMstp selected))

/-- Settles O21: eight classes fix MSTP and MTIN, the ninth MSTP and the top bit of MTIN. -/
theorem committedLogClasses : Obligations.CommittedLogClasses :=
  ⟨committedClass_of_mask_FE 0x10#8, committedClass_of_mask_FE 0x20#8, committedClass_of_mask_FE 0x30#8,
    committedClass_of_mask_FE 0x40#8, committedClass_of_mask_FE 0x50#8, committedClass_of_mask_FE 0x60#8,
    committedClass_of_mask_FE 0x00#8, committedClass_of_mask_FE 0x70#8,
    committedClass_of_mtype fun _ => classify_mtype_of_rsvHi⟩

/-- Settles O22: three classes fix MSTP, the fourth its top bit. -/
theorem committedOtherClasses : Obligations.CommittedOtherClasses :=
  ⟨committedClass_of_mask_0E (pattern := 0x02#8) (by decide),
    committedClass_of_mask_0E (pattern := 0x04#8) (by decide),
    committedClass_of_mask_0E (pattern := 0x06#8) (by decide),
    committedClass_of_mtype fun _ => classify_mtype_of_rsv⟩

/-- Settles O58: the step is the commit of the Record there, and CLASSIFY of its message_info byte raises nothing. -/
theorem reservedTypeCommits : Obligations.ReservedTypeCommits := by
  intro s ready ueh_set little fits b
  have shown_info : (RecRegs.ofRecord (fittingRecord s)).msgInfo = some b := by
    rw [RecRegs.ofRecord_msgInfo, fittingRecord_extended ueh_set, Option.map_some, extendedAt]
    simp only [b, Nat.add_assoc]
  have stepped := step_of_fits ready little fits
  refine ⟨_, stepped, State.commit_status_ne_error _ _ _, rfl, rfl, shown_info, fun selected => ?_⟩
  obtain ⟨_, _, _, shown_type⟩ := classRegs_of_committed ready stepped shown_info
  rw [shown_type, classify_mtype_of_rsv selected]

end Machine

end Sys2Proof

/-! PAYLEN and PAYSLICE (45_record_decoder.md R176 to R178). PAYLEN is over the integers, so it wraps nowhere: its bounds
are those of the 16-bit total_length and of the header part beyond the 16 bytes that total_length does not count. -/

namespace Sys2Proof.Machine

theorem ueh_le_one (f : Byte) : ueh f ≤ 1 := Bool.toNat_le _

theorem nExt_le_three (f : Byte) : nExt f ≤ 3 :=
  Nat.add_le_add (Nat.add_le_add (Bool.toNat_le _) (Bool.toNat_le _)) (Bool.toNat_le _)

/-- R176's first form: the record's start cancels where it is counted in CONSUMED. -/
theorem payLen_after_header (l : BitVec 16) (start h : Nat) :
    payLen l start (start + h) = (l.toNat : Int) - h + 16 := by
  simp only [payLen, Config.baseComp]
  omega

/-- R176's second form: H is 26 and the optional parts, and 16 of it are the storage header's. -/
theorem payLen_after_headerLen (f : Byte) (l : BitVec 16) (start : Nat) :
    payLen l start (start + headerLen f) = (l.toNat : Int) - (10 + 4 * nExt f + 10 * ueh f) := by
  rw [payLen_after_header, headerLen_eq]
  omega

/-- Settles O16: the extremes are total_length 0 under the longest header and 65535 under the shortest. -/
theorem payloadLengthIsExact : Obligations.PayloadLengthIsExact := by
  intro f len start scan
  have from_flags := payLen_after_headerLen f len start
  have ext_le := nExt_le_three f
  have ueh_le := ueh_le_one f
  have len_lt := len.isLt
  refine ⟨rfl, from_flags, ?lower, ?upper⟩
  case lower => omega
  case upper => omega

theorem paySlice_of_out_of_range {n : Int} {len scan : Nat} (out : n < 0 ∨ n > (len : Int) - scan) :
    paySlice n len scan = .error ⟨.payloadLengthOutOfRange, scan⟩ :=
  if_pos out

/-- Settles O17: the check's two outcomes; a length that passed is a natural number, so the view holds all of it. -/
theorem payloadSliceIsExact : Obligations.PayloadSliceIsExact := by
  intro n len scan
  refine ⟨paySlice_of_out_of_range, fun nonneg remains => ?in_range⟩
  have sliced : paySlice n len scan = .ok (⟨scan, n.toNat⟩, scan + n.toNat) :=
    (paySlice_ok_iff n len scan _ _).mpr ⟨nonneg, remains, rfl, rfl⟩
  have exact_len : (n.toNat : Int) = n := Int.toNat_of_nonneg nonneg
  refine ⟨_, _, sliced, rfl, exact_len, ?scan_after⟩
  rw [Nat.cast_add, exact_len]

end Sys2Proof.Machine

/-! The causes of the four errors (60_exceptions.md R241 to R244). A pass raises at its first check that fails, so each
cause below assumes of the earlier checks only that they hold; SCAN at the failing check is the offset. -/

namespace Sys2Proof.Machine

theorem ueh_eq_one_iff (f : Byte) : ueh f = 1 ↔ flagUEH f = true := Bool.toNat_eq_one

theorem ErrCode.code_err_toNat (e : DecodeError) : (ErrCode.err e).code.toNat = errorNumber e := by
  cases e <;> rfl

/-- After the error entry (R250) the host reads the error's code and its failing offset. -/
theorem raisesAt_of_pass_error {s : State} {e : DecodeError} {off : Nat} (ready : s.status = .ready)
    (pass : decodeNext s.cfg s.mem s.len s.cur = .error ⟨e, off⟩) : RaisesAt s e off := by
  refine ⟨s.raise ⟨e, off⟩, ?stepped, ?code, rfl⟩
  case stepped => rw [step_of_ready ready, pass, State.endPass_error]
  case code => exact congrArg (Except.ok ∘ RegValue.number) (ErrCode.code_err_toNat e)

theorem decodeNext_of_head_error {c : Config} {m : Memory} {len start : Nat} {e : Raise}
    (head : headStages c m len start = .error e) : decodeNext c m len start = .error e := by
  rw [decodeNext, head, except_bind_error]

section
variable {s : State}

/-! ### Stages 1 to 3: the storage header, its pattern, the standard header -/

theorem decodeNext_of_short_storage (short : s.len - s.cur < 16) :
    decodeNext s.cfg s.mem s.len s.cur = .error ⟨.truncatedInput, s.cur⟩ :=
  decodeNext_of_head_error (by rw [headStages_eq, if_pos short])

theorem decodeNext_of_wrong_pattern (room : 16 ≤ s.len - s.cur) (wrong : s.mem.read4 s.cur ≠ s.cfg.magic) :
    decodeNext s.cfg s.mem s.len s.cur = .error ⟨.invalidMagic, s.cur⟩ :=
  decodeNext_of_head_error (by rw [headStages_eq, if_neg (by omega), if_pos wrong])

theorem decodeNext_of_short_standard (magic : s.mem.read4 s.cur = s.cfg.magic) (room : 16 ≤ s.len - s.cur)
    (short : s.len - s.cur < 20) :
    decodeNext s.cfg s.mem s.len s.cur = .error ⟨.truncatedInput, s.cur + 16⟩ :=
  decodeNext_of_head_error (by
    rw [headStages_eq, if_neg (by omega), if_neg (not_not_intro magic), if_pos (by omega)])

/-! ### Stages 4 to 9: what the standard header announces -/

/-- With the pattern right and 20 bytes there, the pass is its stages from CHKORDER on. -/
theorem decodeNext_of_head (magic : s.mem.read4 s.cur = s.cfg.magic) (room : 20 ≤ s.len - s.cur) :
    decodeNext s.cfg s.mem s.len s.cur =
      bodyStages s.mem s.len s.cur (storageAt s.mem s.cur) ⟨s.flagsAt, s.mem.read (s.cur + 17), s.lengthAt⟩
        (s.cur + 20) := by
  rw [decodeNext, headStages_eq, if_neg (by omega), if_neg (not_not_intro magic), if_neg (by omega), except_bind_ok]
  rfl

theorem decodeNext_of_msbf (magic : s.mem.read4 s.cur = s.cfg.magic) (room : 20 ≤ s.len - s.cur)
    (big : flagMSBF s.flagsAt = true) :
    decodeNext s.cfg s.mem s.len s.cur = .error ⟨.unsupportedByteOrder, s.cur + 16⟩ := by
  rw [decodeNext_of_head magic room, bodyStages_eq _ _ _ _ _ room, if_pos big]

theorem decodeNext_of_short_extensions (magic : s.mem.read4 s.cur = s.cfg.magic)
    (little : flagMSBF s.flagsAt = false) (room : 20 ≤ s.len - s.cur)
    (short : s.len - s.cur < 20 + 4 * nExt s.flagsAt) :
    decodeNext s.cfg s.mem s.len s.cur = .error ⟨.truncatedInput, s.cur + 20⟩ := by
  rw [decodeNext_of_head magic room, bodyStages_eq _ _ _ _ _ room, if_neg (ne_true_of_eq_false little),
    if_pos short]

theorem decodeNext_of_short_extended (magic : s.mem.read4 s.cur = s.cfg.magic)
    (little : flagMSBF s.flagsAt = false) (announced : ueh s.flagsAt = 1)
    (room : 20 + 4 * nExt s.flagsAt ≤ s.len - s.cur) (short : s.len - s.cur < 30 + 4 * nExt s.flagsAt) :
    decodeNext s.cfg s.mem s.len s.cur = .error ⟨.truncatedInput, s.cur + 20 + 4 * nExt s.flagsAt⟩ := by
  have standard : 20 ≤ s.len - s.cur := by omega
  rw [decodeNext_of_head magic standard, bodyStages_eq _ _ _ _ _ standard, if_neg (ne_true_of_eq_false little),
    if_neg (Nat.not_lt.mpr room), if_pos ⟨(ueh_eq_one_iff _).mp announced, short⟩]

/-- The extended header's ten bytes count only where it is announced, so with everything before the reserved field there,
SKIPEXT and EXTHDR raise nothing, and what is left is SKIPRSV and PAYSLICE. -/
theorem decodeNext_of_room_to_reserved (magic : s.mem.read4 s.cur = s.cfg.magic)
    (little : flagMSBF s.flagsAt = false)
    (room : 20 + 4 * nExt s.flagsAt + 10 * ueh s.flagsAt ≤ s.len - s.cur) :
    decodeNext s.cfg s.mem s.len s.cur =
      if s.len - s.cur < headerLen s.flagsAt then .error ⟨.truncatedInput, s.cur + headerLen s.flagsAt - 6⟩
      else if s.lengthAt.toNat < headerLen s.flagsAt - 16 ∨ 16 + s.lengthAt.toNat > s.len - s.cur then
        .error ⟨.payloadLengthOutOfRange, s.cur + headerLen s.flagsAt⟩
      else .ok (fittingRecord s, s.cur + 16 + s.lengthAt.toNat) := by
  have standard : 20 ≤ s.len - s.cur := by omega
  have extensions_fit : ¬ s.len - s.cur < 20 + 4 * nExt s.flagsAt := by omega
  have extended_fits : ¬ (flagUEH s.flagsAt = true ∧ s.len - s.cur < 30 + 4 * nExt s.flagsAt) := by
    rintro ⟨announced, short⟩
    have := (ueh_eq_one_iff _).mpr announced
    omega
  rw [decodeNext_of_head magic standard, bodyStages_eq _ _ _ _ _ standard, if_neg (ne_true_of_eq_false little),
    if_neg extensions_fit, if_neg extended_fits]
  rfl

end

/-- Settles O10: one cause per row of R241 to R244. The pass gives the reserved field's offset as six bytes before
the payload's, which is where the extended header ends. -/
theorem errorCausesAndOffsets : Obligations.ErrorCausesAndOffsets := by
  intro s ready rem n u h l
  have raises {e : DecodeError} {off : Nat} := raisesAt_of_pass_error (e := e) (off := off) ready
  have header_len : headerLen s.flagsAt = h := headerLen_eq s.flagsAt
  refine ⟨fun short => raises (decodeNext_of_short_storage short),
    fun room wrong => raises (decodeNext_of_wrong_pattern room wrong),
    fun magic => ⟨fun room short => raises (decodeNext_of_short_standard magic room short),
      fun room big => raises (decodeNext_of_msbf magic room big),
      fun little => ⟨fun room short => raises (decodeNext_of_short_extensions magic little room short),
        fun announced room short => raises (decodeNext_of_short_extended magic little announced room short),
        ?reserved, ?payload, ?fits⟩⟩⟩
  case reserved =>
    intro room short
    have at_reserved : s.cur + h - 6 = s.cur + 20 + 4 * n + 10 * u := by omega
    apply raises
    rw [decodeNext_of_room_to_reserved magic little room, header_len, if_pos short, at_reserved]
  case payload =>
    intro room out_of_range
    apply raises
    rw [decodeNext_of_room_to_reserved magic little (by omega), header_len, if_neg (Nat.not_lt.mpr room),
      if_pos out_of_range]
  case fits =>
    intro room header_counted payload_fits
    have record_fits : RecordFits s s.lengthAt (headerLen s.flagsAt) := by
      rw [header_len]
      exact ⟨magic, by omega, by omega⟩
    exact ⟨_, step_of_fits ready little record_fits, State.commit_status_ne_error _ _ _⟩

end Sys2Proof.Machine

/-! Decode and encode agree, both ways and in both spaces (30_encoding.md R76, R77). Everything turns on the opcode
byte: each map gives an instruction back from its opcode byte, and the opcode byte of what a map answers is the byte it
was given. -/

namespace Sys2Proof

/-! ### From an instruction to its byte and back -/

/-- A form's word has a counter and a total_length behind its flags byte. -/
theorem form_wordTail {i : Instr} (form : i.space = .flags) : ∃ ctr len, i.wordTail = headerTail ctr len := by
  cases i <;> simp only [Instr.space, reduceCtorEq] at form <;> exact ⟨_, _, rfl⟩

theorem class_wordTail {i : Instr} (cls : i.space = .msgInfo) : i.wordTail = [] := by
  cases i <;> simp only [Instr.space, reduceCtorEq] at cls <;> rfl

/-- Each of the 16 legal rows is found by its own bits; the illegal row keeps the whole byte. -/
theorem decodeForm_of_opcodeByte {i : Instr} (form : i.space = .flags) (wf : i.wellFormed = true) {ctr : Byte}
    {len : BitVec 16} (tail : i.wordTail = headerTail ctr len) : decodeForm i.opcodeByte ctr len = i := by
  cases i <;> simp only [Instr.space, reduceCtorEq] at form <;>
    obtain ⟨rfl, rfl⟩ := headerTail_inj _ _ _ _ tail
  case recMSBF => exact if_pos wf
  all_goals simp [Instr.opcodeByte, decodeForm, flagsByte_bits]

/-- Each class row is found by the fields its byte is put together from. -/
theorem decodeMsgInfo_of_opcodeByte {i : Instr} (cls : i.space = .msgInfo) (wf : i.wellFormed = true) :
    decodeMsgInfo i.opcodeByte = i := by
  cases i <;> simp only [Instr.space, reduceCtorEq] at cls
  case mtLogRsvHi mtin verb => revert mtin verb; decide
  case mtAppTrace mtin verb => revert mtin verb; decide
  case mtNetTrace mtin verb => revert mtin verb; decide
  case mtControl mtin verb => revert mtin verb; decide
  case mtRsv mtin mstp verb => revert mtin mstp verb; decide
  all_goals next verb => cases verb <;> rfl

/-- Settles O2: the word's bytes behind the opcode byte hold the form's other operands. -/
theorem decodeOfEncode : Obligations.DecodeOfEncode := by
  intro i rest wf
  cases space : i.space with
  | flags =>
    obtain ⟨ctr, len, tail⟩ := form_wordTail space
    have found := decodeForm_of_opcodeByte space wf tail
    simp only [encode, tail, headerTail, be16uBytes, List.cons_append, List.nil_append, decode, be16u_of_bytes, found]
  | msgInfo =>
    have found := decodeMsgInfo_of_opcodeByte space wf
    simp only [encode, class_wordTail space, List.cons_append, List.nil_append, decode, found]

/-! ### From a byte to its instruction and back -/

theorem decodeForm_wellFormed (f ctr : Byte) (len : BitVec 16) : (decodeForm f ctr len).wellFormed = true := by
  unfold decodeForm
  split
  · assumption
  · split <;> rfl

theorem decodeMsgInfo_space (b : Byte) : (decodeMsgInfo b).space = .msgInfo := by
  unfold decodeMsgInfo
  split
  case h_5 => split <;> rfl
  all_goals rfl

/-- The two rows with a bound on a field are reached through the field's top bit. -/
theorem decodeMsgInfo_wellFormed : ∀ b : Byte, (decodeMsgInfo b).wellFormed = true := by decide

theorem decodeMsgInfo_opcodeByte : ∀ b : Byte, (decodeMsgInfo b).opcodeByte = b := by decide

theorem encode_decodeForm (f ctr l0 l1 : Byte) : encode (decodeForm f ctr (be16u l0 l1)) = [f, ctr, l0, l1] := by
  simp only [encode, decodeForm_opcodeByte, decodeForm_wordTail, headerTail, be16uBytes_be16u]

theorem encode_decodeMsgInfo (b : Byte) : encode (decodeMsgInfo b) = [b] := by
  rw [encode, decodeMsgInfo_opcodeByte, class_wordTail (decodeMsgInfo_space b)]

/-- What the decoder reads: a form from four bytes or a class from one. -/
theorem decode_ok_cases {sp : OpSpace} {bs rest : List Byte} {i : Instr} (read : decode sp bs = .ok (i, rest)) :
    (∃ f ctr l0 l1, sp = .flags ∧ bs = f :: ctr :: l0 :: l1 :: rest ∧ i = decodeForm f ctr (be16u l0 l1)) ∨
    ∃ b, sp = .msgInfo ∧ bs = b :: rest ∧ i = decodeMsgInfo b := by
  unfold decode at read
  split at read
  case h_1 f ctr l0 l1 _ =>
    obtain ⟨rfl, rfl⟩ := Prod.mk.inj (Except.ok.inj read)
    exact .inl ⟨f, ctr, l0, l1, rfl, rfl, rfl⟩
  case h_3 b _ =>
    obtain ⟨rfl, rfl⟩ := Prod.mk.inj (Except.ok.inj read)
    exact .inr ⟨b, rfl, rfl, rfl⟩
  all_goals cases read

/-- Settles O3: a form is its four bytes and a class its one byte, whatever they are. -/
theorem encodeOfDecode : Obligations.EncodeOfDecode := by
  intro sp bs rest i read
  obtain ⟨f, ctr, l0, l1, rfl, rfl, rfl⟩ | ⟨b, rfl, rfl, rfl⟩ := decode_ok_cases read
  · exact ⟨decodeForm_wellFormed _ _ _, decodeForm_space _ _ _, congrArg (· ++ rest) (encode_decodeForm f ctr l0 l1)⟩
  · exact ⟨decodeMsgInfo_wellFormed b, decodeMsgInfo_space b, congrArg (· ++ rest) (encode_decodeMsgInfo b)⟩

/-! ### The rows partition the bytes

Two rows that both select a byte agree on the bits that both masks keep. No two rows of a table agree there, so a byte
selects one row at most; and the decoded instruction's row selects it. -/

/-- Two rows whose patterns agree where both masks look. -/
def OpRow.compatible (r r' : OpRow) : Prop := r.pattern &&& r'.mask = r'.pattern &&& r.mask

theorem OpRow.compatible_of_selects {r r' : OpRow} {b : Byte} (sel : r.selects b = true) (sel' : r'.selects b = true) :
    r.compatible r' := by
  have masked : b &&& r.mask = r.pattern := eq_of_beq sel
  have masked' : b &&& r'.mask = r'.pattern := eq_of_beq sel'
  rw [OpRow.compatible, ← masked, ← masked', BitVec.and_assoc, BitVec.and_assoc, BitVec.and_comm r.mask]

theorem formRows_incompatible : formRows.Pairwise fun r r' => ¬ r.compatible r' := by
  unfold OpRow.compatible
  decide

theorem classRows_incompatible : classRows.Pairwise fun r r' => ¬ r.compatible r' := by
  unfold OpRow.compatible
  decide

/-- Among rows of which no two agree, the only one that selects a byte is the one known to. -/
theorem filter_selects_eq_singleton {rows : List OpRow} (apart : rows.Pairwise fun r r' => ¬ r.compatible r')
    {row : OpRow} (mem : row ∈ rows) {b : Byte} (sel : row.selects b = true) :
    rows.filter (·.selects b) = [row] := by
  induction rows with
  | nil => exact absurd mem List.not_mem_nil
  | cons r rows ih =>
    obtain ⟨head_apart, tail_apart⟩ := List.pairwise_cons.mp apart
    rcases List.mem_cons.mp mem with rfl | later
    · have none_later : rows.filter (·.selects b) = [] := List.filter_eq_nil_iff.mpr fun r' mem' sel' =>
        head_apart r' mem' (OpRow.compatible_of_selects sel sel')
      rw [List.filter_cons_of_pos (p := fun r : OpRow => r.selects b) sel, none_later]
    · have head_out : ¬ r.selects b = true := fun sel' =>
        head_apart row later (OpRow.compatible_of_selects sel' sel)
      rw [List.filter_cons_of_neg (p := fun r : OpRow => r.selects b) head_out, ih tail_apart later]

/-- The laws of the 30 rows, as one. -/
theorem tableRow (i : Instr) : Laws.TableRow.Statement i := by
  cases i with
  | recBase => exact Laws.TableRow.recBase _ _ _
  | recX => exact Laws.TableRow.recX _ _ _
  | recE => exact Laws.TableRow.recE _ _ _
  | recXE => exact Laws.TableRow.recXE _ _ _
  | recS => exact Laws.TableRow.recS _ _ _
  | recXS => exact Laws.TableRow.recXS _ _ _
  | recES => exact Laws.TableRow.recES _ _ _
  | recXES => exact Laws.TableRow.recXES _ _ _
  | recT => exact Laws.TableRow.recT _ _ _
  | recXT => exact Laws.TableRow.recXT _ _ _
  | recET => exact Laws.TableRow.recET _ _ _
  | recXET => exact Laws.TableRow.recXET _ _ _
  | recST => exact Laws.TableRow.recST _ _ _
  | recXST => exact Laws.TableRow.recXST _ _ _
  | recEST => exact Laws.TableRow.recEST _ _ _
  | recXEST => exact Laws.TableRow.recXEST _ _ _
  | recMSBF => exact Laws.TableRow.recMSBF _ _ _
  | mtLogFatal => exact Laws.TableRow.mtLogFatal _
  | mtLogError => exact Laws.TableRow.mtLogError _
  | mtLogWarn => exact Laws.TableRow.mtLogWarn _
  | mtLogInfo => exact Laws.TableRow.mtLogInfo _
  | mtLogDebug => exact Laws.TableRow.mtLogDebug _
  | mtLogVerbose => exact Laws.TableRow.mtLogVerbose _
  | mtLogRsv0 => exact Laws.TableRow.mtLogRsv0 _
  | mtLogRsv7 => exact Laws.TableRow.mtLogRsv7 _
  | mtLogRsvHi => exact Laws.TableRow.mtLogRsvHi _ _
  | mtAppTrace => exact Laws.TableRow.mtAppTrace _ _
  | mtNetTrace => exact Laws.TableRow.mtNetTrace _ _
  | mtControl => exact Laws.TableRow.mtControl _ _
  | mtRsv => exact Laws.TableRow.mtRsv _ _ _

/-- Settles O4: the decoded instruction's row selects the byte, and no other row of its table can. -/
theorem opcodeMapsPartition : Obligations.OpcodeMapsPartition := by
  constructor
  · intro f ctr len
    have law := tableRow (decodeForm f ctr len) (decodeForm_wellFormed f ctr len)
    rw [decodeForm_opcodeByte, decodeForm_space] at law
    obtain ⟨selected, _, in_table, _⟩ := law
    exact filter_selects_eq_singleton formRows_incompatible in_table selected
  · intro b
    have law := tableRow (decodeMsgInfo b) (decodeMsgInfo_wellFormed b)
    rw [decodeMsgInfo_opcodeByte, decodeMsgInfo_space] at law
    obtain ⟨selected, _, in_table, _⟩ := law
    exact filter_selects_eq_singleton classRows_incompatible in_table selected

/-- Settles O1: each word is read through its two opcode maps. -/
theorem specWordsDecode : Obligations.SpecWordsDecode :=
  ⟨rfl, rfl, rfl, rfl, rfl, rfl, rfl, rfl, rfl, rfl⟩

end Sys2Proof

/-! One step, said once: outside READY nothing, in READY the end of one DECODE_NEXT (47_record_stream.md R224). What a
step appends, raises or leaves is read off the two ends of a pass. -/

namespace Sys2Proof.Machine

/-! ### The step -/

/-- The state one NEXT leads to. -/
def State.afterStep (s : State) : State :=
  if s.status = .ready then s.endPass (decodeNext s.cfg s.mem s.len s.cur) else s

theorem step_of_not_ready {s : State} (halted : s.status ≠ .ready) : step s = .next s := by
  unfold step
  split
  case h_1 ready => exact absurd ready halted
  all_goals rfl

theorem step_eq_afterStep (s : State) : step s = .next s.afterStep := by
  by_cases ready : s.status = .ready
  · rw [step_of_ready ready, State.afterStep, if_pos ready]
  · rw [step_of_not_ready ready, State.afterStep, if_neg ready]

/-- Everything a step can do: nothing outside READY; in READY a commit where DECODE_NEXT commits, else the error
entry. -/
theorem step_cases {s t : State} (stepped : step s = .next t) :
    (s.status ≠ .ready ∧ t = s) ∨
    (s.status = .ready ∧ ∃ r scan, decodeNext s.cfg s.mem s.len s.cur = .ok (r, scan) ∧ t = s.commit r scan) ∨
    (s.status = .ready ∧ ∃ e, decodeNext s.cfg s.mem s.len s.cur = .error e ∧ t = s.raise e) := by
  rw [step_eq_afterStep] at stepped
  obtain rfl := Host.Outcome.next.inj stepped
  by_cases ready : s.status = .ready
  · rw [State.afterStep, if_pos ready]
    cases pass : decodeNext s.cfg s.mem s.len s.cur with
    | ok p => exact .inr (.inl ⟨ready, p.1, p.2, rfl, rfl⟩)
    | error e => exact .inr (.inr ⟨ready, e, rfl, rfl⟩)
  · exact .inl ⟨ready, if_neg ready⟩

/-- A step from READY that does not end in ERROR is a commit. -/
theorem commit_of_step_ok {s t : State} (ready : s.status = .ready) (stepped : step s = .next t)
    (ok : t.status ≠ .error) :
    ∃ r scan, decodeNext s.cfg s.mem s.len s.cur = .ok (r, scan) ∧ t = s.commit r scan := by
  obtain ⟨halted, -⟩ | ⟨-, committed⟩ | ⟨-, e, -, rfl⟩ := step_cases stepped
  · exact absurd ready halted
  · exact committed
  · exact absurd (State.raise_status s e) ok

/-- A step from READY that ends in ERROR is an error entry. -/
theorem raise_of_step_error {s t : State} (ready : s.status = .ready) (stepped : step s = .next t)
    (failed : t.status = .error) : ∃ e, decodeNext s.cfg s.mem s.len s.cur = .error e ∧ t = s.raise e := by
  obtain ⟨halted, -⟩ | ⟨-, r, scan, -, rfl⟩ | ⟨-, raised⟩ := step_cases stepped
  · exact absurd ready halted
  · exact absurd failed (State.commit_status_ne_error s r scan)
  · exact raised

/-- The error entry, field by field, is the statements' raised state. -/
theorem State.raise_eq_raisedState (s : State) (e : Raise) : s.raise e = raisedState s e := rfl

/-- Settles O7: COMMIT and the error entry are the two ends of the pass. -/
theorem nextRunsDecodeNext : Obligations.NextRunsDecodeNext := by
  intro s
  rw [hostCommand, step_eq_afterStep, State.afterStep]
  cases decodeNext s.cfg s.mem s.len s.cur <;> rfl

/-- Settles O8: the state after the step is a function of the state before it. -/
theorem stepAlwaysAnswersNext : Obligations.StepAlwaysAnswersNext := fun s => ⟨_, step_eq_afterStep s⟩

/-- Settles O6: the decoder's answer picks the arm of the step. -/
theorem stepRunsDecodedInstruction : Obligations.StepRunsDecodedInstruction := by
  intro s i rest ready word
  simp only [step, ready, word]

/-- Settles O39: the two states end the same pass, and what the claim compares comes from the pass and LEN alone. -/
theorem stepIgnoresEarlierRecords : Obligations.StepIgnoresEarlierRecords := by
  intro s s' t t' ready ready' cfg mem len cur stepped stepped'
  rw [step_of_ready ready] at stepped
  rw [step_of_ready ready', ← cfg, ← mem, ← len, ← cur] at stepped'
  obtain rfl := Host.Outcome.next.inj stepped
  obtain rfl := Host.Outcome.next.inj stepped'
  cases decodeNext s.cfg s.mem s.len s.cur with
  | ok p =>
    obtain ⟨r, scan⟩ := p
    simp only [State.endPass_ok, State.commit_regs, State.commit_cur, State.commit_status, len, true_and]
    exact fun failed => absurd failed (State.commit_status_ne_error s' r scan)
  | error e =>
    simp only [State.endPass_error, State.raise_regs, State.raise_cur, State.raise_status, State.raise_errCode,
      State.raise_errOff, cur, true_and, implies_true]

/-- Settles O40: only the error entry ends in ERROR. -/
theorem errorsArePrecise : Obligations.ErrorsArePrecise := by
  intro s t ready stepped failed
  obtain ⟨e, pass, rfl⟩ := raise_of_step_error ready stepped failed
  exact ⟨e, pass, s.raise_eq_raisedState e⟩

/-- Settles O51: only a commit touches OUT and REC_INDEX. -/
theorem stepOnlyAppendsToOut : Obligations.StepOnlyAppendsToOut := by
  intro s t stepped
  obtain ⟨-, rfl⟩ | ⟨-, r, scan, -, rfl⟩ | ⟨-, e, -, rfl⟩ := step_cases stepped
  · exact .inl ⟨rfl, rfl⟩
  · exact .inr ⟨r, s.commit_out r scan, s.commit_recIndex r scan⟩
  · exact .inl ⟨s.raise_out e, s.raise_recIndex e⟩

/-! ### What a step leaves -/

/-- The block is read-only: configuration, BUF and LEN stand after every instruction. -/
theorem exec_frame {i : Instr} {s t : State} (ran : exec i s = .next t) :
    t.mem = s.mem ∧ t.len = s.len ∧ t.cfg = s.cfg := by
  cases space : i.space with
  | flags =>
    obtain ⟨ctr, len, tail⟩ := form_wordTail space
    rw [exec_form i space ctr len tail] at ran
    obtain rfl := Host.Outcome.next.inj ran
    obtain ⟨cfg, mem, len⟩ := s.runRecord_frame i.opcodeByte ctr len
    exact ⟨mem, len, cfg⟩
  | msgInfo =>
    obtain ⟨mtin, mstp, verb, type, output, -, -⟩ := exec_class s i space
    rw [output] at ran
    obtain rfl := Host.Outcome.next.inj ran
    exact ⟨rfl, rfl, rfl⟩

/-- Settles O50: a form writes what a pass ends in, a class writes registers. -/
theorem noInstructionWritesBuffer : Obligations.NoInstructionWritesBuffer := fun _ _ _ => exec_frame

theorem State.afterStep_frame (s : State) :
    s.afterStep.mem = s.mem ∧ s.afterStep.len = s.len ∧ s.afterStep.cfg = s.cfg := by
  unfold State.afterStep
  split
  · exact ⟨s.endPass_mem _, s.endPass_len _, s.endPass_cfg _⟩
  · exact ⟨rfl, rfl, rfl⟩

/-- A step ends the validity of no view. -/
theorem step_validViews_mono {s t : State} (stepped : step s = .next t) {v : View} (valid : v ∈ s.validViews) :
    v ∈ t.validViews := by
  obtain ⟨-, rfl⟩ | ⟨-, r, scan, -, rfl⟩ | ⟨-, e, -, rfl⟩ := step_cases stepped
  · exact valid
  · rw [State.commit_validViews]
    exact List.mem_append_left _ valid
  · rwa [State.raise_validViews]

/-- Settles O60: a host's reads depend on BUF, LEN and the valid views alone. -/
theorem stepKeepsViews : Obligations.StepKeepsViews := by
  intro s t stepped
  have frame := s.afterStep_frame
  rw [← Host.Outcome.next.inj ((step_eq_afterStep s).symm.trans stepped).symm] at frame
  obtain ⟨mem, len, -⟩ := frame
  refine ⟨fun v bs read => ?view, fun a n => ?buf, fun a => ?seconds, fun a => ?micros⟩
  case view =>
    obtain ⟨inside, valid, bytes⟩ := (s.readView_ok_iff v bs).mp read
    refine (t.readView_ok_iff v bs).mpr ⟨?_, step_validViews_mono stepped valid, ?_⟩
    · rwa [len]
    · rwa [mem]
  all_goals exact State.readField_eq s t mem len _ _ _

/-! ### ERROR, LOAD and RESET -/

/-- Settles O42: a step is the only command that is no LOAD and no RESET, and it changes nothing in ERROR. -/
theorem onlyLoadAndResetLeaveError : Obligations.OnlyLoadAndResetLeaveError := by
  intro c s t failed ran
  cases c with
  | reset => exact ⟨Command.noConfusion, fun _ => .inl rfl⟩
  | load bs => exact ⟨Command.noConfusion, fun _ => .inr ⟨bs, rfl⟩⟩
  | next =>
    have halted : s.status ≠ .ready := by rw [failed]; exact Status.noConfusion
    obtain rfl := Host.Outcome.next.inj ((step_of_not_ready halted).symm.trans ran)
    exact ⟨fun _ => rfl, fun left => absurd failed left⟩

theorem load_of_lt {s : State} {bs : List Byte} (short : bs.length < 2 ^ s.cfg.aw) :
    hostCommand (.load bs) s = .next (s.loadBuffer bs) := if_pos short

theorem load_of_le {s : State} {bs : List Byte} (long : 2 ^ s.cfg.aw ≤ bs.length) :
    hostCommand (.load bs) s = .refused (.bufferTooLong bs.length) := if_neg (Nat.not_lt.mpr long)

/-- An accepted LOAD. -/
theorem load_next_iff (s t : State) (bs : List Byte) :
    hostCommand (.load bs) s = .next t ↔ bs.length < 2 ^ s.cfg.aw ∧ t = s.loadBuffer bs := by
  rcases Nat.lt_or_ge bs.length (2 ^ s.cfg.aw) with short | long
  · simp only [load_of_lt short, Host.Outcome.next.injEq, short, true_and, eq_comm]
  · simp only [load_of_le long, reduceCtorEq, Nat.not_lt.mpr long, false_and]

/-- A run of the buffer's bytes is that run of the bytes it was loaded with. -/
theorem Memory.readBytes_ofBytes {bs : List Byte} {a n : Nat} (inside : a + n ≤ bs.length) :
    (Memory.ofBytes bs).readBytes a n = (bs.drop a).take n := by
  refine List.ext_getElem (by simp only [Memory.readBytes_length, List.length_take, List.length_drop]; omega) ?_
  intro k hk hk'
  rw [Memory.readBytes_length] at hk
  have byte := Memory.readBytes_getD (Memory.ofBytes bs) a n k hk
  rw [Memory.read_ofBytes, List.getD_eq_getElem _ _ (by rwa [Memory.readBytes_length]),
    List.getD_eq_getElem _ _ (by omega)] at byte
  rw [byte, List.getElem_take, List.getElem_drop]

/-- Settles O43: the state LOAD leaves, with the bytes read back from the canonical form of the buffer. -/
theorem loadStartsRun : Obligations.LoadStartsRun := by
  intro s bs short
  refine ⟨s.loadBuffer bs, load_of_lt short, rfl, Memory.read_ofBytes bs, fun a n inside => ?read, rfl, rfl, rfl, rfl,
    rfl, rfl, rfl, rfl, rfl⟩
  exact (State.readField_ok_iff _ _ _ _ _).mpr ⟨inside, Memory.readBytes_ofBytes inside⟩

/-- Settles O44: such a string fails LOAD's one check. -/
theorem loadRefusesLongBuffer : Obligations.LoadRefusesLongBuffer := fun _ _ => load_of_le

/-- Settles O45: RESET writes the table, and keeps the configuration it finds. -/
theorem resetBlock : Obligations.ResetBlock := fun _ => rfl

/-- Settles O48: LOAD takes the configuration from the state it starts in, and nothing else. -/
theorem loadIsRestartable : Obligations.LoadIsRestartable := by
  intro s s' bs cfg
  simp only [hostCommand, State.load, State.loadBuffer, cfg]

/-- A register that holds no value is refused. -/
theorem State.readReg_of_no_value {s : State} {r : Reg} (empty : s.regValue r = none) :
    s.readReg r = .error (.noValue r) := by
  simp only [State.readReg, empty]

/-- With no value in any record output register, none of the 21 holds one for the host. -/
theorem regValue_of_noValue {s : State} (empty : s.regs = RecRegs.noValue) :
    ∀ r ∈ extendedRegs ++ plainValueRegs, s.regValue r = none := by
  intro r listed
  fin_cases listed <;> simp only [State.regValue, empty] <;> rfl

/-- Settles O46: the table, and with it no value in any record output register. -/
theorem resetValues : Obligations.ResetValues :=
  ⟨rfl, rfl, rfl, rfl, rfl, rfl, rfl, rfl, rfl, rfl, fun r listed =>
    State.readReg_of_no_value (regValue_of_noValue (s := State.reset) rfl r listed)⟩

/-- Where no Record is in OUT every read of a view stops: outside the buffer by a fault, inside it as stale. -/
theorem State.readView_of_no_views {s : State} (none_valid : s.validViews = []) (v : View) :
    s.readView v = .error (if s.len < v.off + v.len then .inl (.viewOutsideBuffer v) else .inr (.staleView v)) := by
  by_cases inside : v.off + v.len ≤ s.len
  · simp only [State.readView, State.readBuf, State.readField, inside, none_valid, if_true, List.not_mem_nil, if_false,
      Nat.not_lt.mpr inside]
  · simp only [State.readView, State.readBuf, State.readField, inside, if_false, Nat.not_le.mp inside, if_true]

/-- Settles O59: either command leaves OUT empty, so no view is a view of an emitted Record. -/
theorem loadAndResetEndViews : Obligations.LoadAndResetEndViews := by
  intro c s t v not_next ran
  apply State.readView_of_no_views
  cases c with
  | reset =>
    obtain rfl := Host.Outcome.next.inj ran
    exact s.resetBlock_validViews
  | load bs =>
    obtain ⟨-, rfl⟩ := (load_next_iff s t bs).mp ran
    exact s.loadBuffer_validViews bs
  | next => exact absurd rfl not_next

end Sys2Proof.Machine

/-! A pass is the decision list (60_exceptions.md R246): the nine stages answer an error exactly where the list does,
with the list's offset, and where the list ends in its commit line they answer the Record that stands there. -/

namespace Sys2Proof.Machine

/-! ### The pass and the list -/

/-- The standard header that stands in the record at `start` (42_standard_header.md R120). -/
def standardAt (m : Memory) (start : Nat) : StandardHeader :=
  ⟨m.read (start + 16), m.read (start + 17), be16u (m.read (start + 18)) (m.read (start + 19))⟩

/-- The Record of a pass at `start` with the standard header `std`. -/
def passRecord (m : Memory) (start : Nat) (std : StandardHeader) : Record where
  storage := storageAt m start
  standard := std
  extended := extendedHeaderAt m std.flags (start + 20 + 4 * nExt std.flags)
  payload := ⟨start + headerLen std.flags, std.totalLength.toNat - (headerLen std.flags - 16)⟩

/-- What a record at `start` with the standard header `std` must meet to commit: the pattern, the byte order, a
total_length that counts the header, and all its bytes below LEN. -/
structure PassFits (c : Config) (m : Memory) (len start : Nat) (std : StandardHeader) : Prop where
  magic : m.read4 start = c.magic
  little : flagMSBF std.flags = false
  header_counted : headerLen std.flags ≤ 16 + std.totalLength.toNat
  inside : start + 16 + std.totalLength.toNat ≤ len

theorem headerLen_ge (f : Byte) : 26 ≤ headerLen f := by
  rw [headerLen_eq]
  omega

/-- The list with H by its name, and the last two errors as the one check of PAYSLICE. -/
theorem decisionLine_eq (c : Config) (m : Memory) (len start : Nat) (f : Byte) (l : BitVec 16) :
    decisionLine c m len start f l =
      if len - start < 16 then .error ⟨.truncatedInput, start⟩
      else if m.read4 start ≠ c.magic then .error ⟨.invalidMagic, start⟩
      else if len - start < 20 then .error ⟨.truncatedInput, start + 16⟩
      else if flagMSBF f = true then .error ⟨.unsupportedByteOrder, start + 16⟩
      else if len - start < 20 + 4 * nExt f then .error ⟨.truncatedInput, start + 20⟩
      else if flagUEH f = true ∧ len - start < 30 + 4 * nExt f then .error ⟨.truncatedInput, start + 20 + 4 * nExt f⟩
      else if len - start < headerLen f then .error ⟨.truncatedInput, start + headerLen f - 6⟩
      else if l.toNat < headerLen f - 16 ∨ 16 + l.toNat > len - start then
        .error ⟨.payloadLengthOutOfRange, start + headerLen f⟩
      else .ok (start + 16 + l.toNat) := by
  simp only [← ueh_eq_one_iff, headerLen_eq, ite_or]
  rfl

/-- A PASS IS THE DECISION LIST, with the Record that stands there on its commit line. -/
theorem decodePass_eq (c : Config) (m : Memory) (len start : Nat) (f ctr : Byte) (l : BitVec 16) :
    decodePass c m len start f ctr l =
      (decisionLine c m len start f l).map fun scan => (passRecord m start ⟨f, ctr, l⟩, scan) := by
  rw [decodePass, headStages_eq, decisionLine_eq]
  by_cases short_storage : len - start < 16
  · rw [if_pos short_storage, if_pos short_storage]; rfl
  rw [if_neg short_storage, if_neg short_storage]
  by_cases wrong : m.read4 start ≠ c.magic
  · rw [if_pos wrong, if_pos wrong]; rfl
  rw [if_neg wrong, if_neg wrong]
  by_cases short : len - start < 20
  · rw [if_pos short, if_pos (by omega)]; rfl
  rw [if_neg short, if_neg (by omega), except_bind_ok]
  simp only [bodyStages_eq _ _ _ _ _ (Nat.not_lt.mp short), apply_ite (Except.map _)]
  rfl

theorem decodeNext_eq (c : Config) (m : Memory) (len start : Nat) :
    decodeNext c m len start =
      (decisionLine c m len start (standardAt m start).flags (standardAt m start).totalLength).map
        fun scan => (passRecord m start (standardAt m start), scan) :=
  decodePass_eq c m len start _ _ _

/-- The list's commit line. -/
theorem decisionLine_ok_iff (c : Config) (m : Memory) (len start scan : Nat) (std : StandardHeader) :
    decisionLine c m len start std.flags std.totalLength = .ok scan ↔
      PassFits c m len start std ∧ scan = start + 16 + std.totalLength.toNat := by
  have with_ext := (headerLen_cases std.flags).1
  have header_len := headerLen_eq std.flags
  rw [decisionLine_eq]
  constructor
  · intro commits
    split_ifs at commits with _ wrong _ big _ _ _ out
    rw [not_or] at out
    have ⟨counted, fits⟩ := out
    exact ⟨⟨not_not.mp wrong, Bool.eq_false_of_not_eq_true big, by omega, by omega⟩, (Except.ok.inj commits).symm⟩
  · rintro ⟨⟨magic, little, counted, inside⟩, rfl⟩
    have ext_fits : ¬ (flagUEH std.flags = true ∧ len - start < 30 + 4 * nExt std.flags) := by
      rintro ⟨announced, short⟩
      have := with_ext announced
      omega
    rw [if_neg (by omega), if_neg (not_not_intro magic), if_neg (by omega), if_neg (ne_true_of_eq_false little),
      if_neg (by omega), if_neg ext_fits, if_neg (by omega), if_neg (by omega)]

/-- DECODE_NEXT commits exactly a record that fits: the Record that stands there, with SCAN at its end. -/
theorem decodeNext_ok_iff (c : Config) (m : Memory) (len start scan : Nat) (r : Record) :
    decodeNext c m len start = .ok (r, scan) ↔
      PassFits c m len start (standardAt m start) ∧ r = passRecord m start (standardAt m start) ∧
        scan = start + 16 + (standardAt m start).totalLength.toNat := by
  have line := decisionLine_ok_iff c m len start scan (standardAt m start)
  rw [decodeNext_eq]
  cases outcome : decisionLine c m len start (standardAt m start).flags (standardAt m start).totalLength with
  | error e =>
    rw [outcome] at line
    constructor
    · intro commits; cases commits
    · rintro ⟨fits, -, rfl⟩; cases line.mpr ⟨fits, rfl⟩
  | ok a =>
    rw [outcome, Except.ok.injEq] at line
    simp only [Except.map, Except.ok.injEq, Prod.mk.injEq, line, eq_comm (a := r)]
    tauto

/-- Where the list raises, so does the pass. -/
theorem decodePass_of_line_error {c : Config} {m : Memory} {len start : Nat} {f : Byte} {l : BitVec 16} {e : Raise}
    (line : decisionLine c m len start f l = .error e) (ctr : Byte) : decodePass c m len start f ctr l = .error e := by
  rw [decodePass_eq, line]
  rfl

theorem decodePass_of_fits {c : Config} {m : Memory} {len start : Nat} {std : StandardHeader}
    (fits : PassFits c m len start std) :
    decodePass c m len start std.flags std.counter std.totalLength =
      .ok (passRecord m start std, start + 16 + std.totalLength.toNat) := by
  rw [decodePass_eq, (decisionLine_ok_iff c m len start _ std).mpr ⟨fits, rfl⟩]
  rfl

/-- A pass that raises, raises what the list says for the header in the buffer. -/
theorem line_of_decodeNext_error {c : Config} {m : Memory} {len start : Nat} {e : Raise}
    (failed : decodeNext c m len start = .error e) :
    decisionLine c m len start (standardAt m start).flags (standardAt m start).totalLength = .error e := by
  rw [decodeNext_eq] at failed
  cases outcome : decisionLine c m len start (standardAt m start).flags (standardAt m start).totalLength with
  | error e' =>
    rw [outcome] at failed
    exact congrArg Except.error (Except.error.inj failed)
  | ok scan =>
    rw [outcome] at failed
    cases failed

/-- Settles O9: the step ends the pass, and the pass is the list. -/
theorem passFollowsDecisionList : Obligations.PassFollowsDecisionList := by
  intro s ready
  have pass : decodeNext s.cfg s.mem s.len s.cur = (decisionLine s.cfg s.mem s.len s.cur s.flagsAt s.lengthAt).map
      fun scan => (passRecord s.mem s.cur (standardAt s.mem s.cur), scan) := decodeNext_eq _ _ _ _
  have stepped := step_of_ready ready
  rw [pass] at stepped
  cases outcome : decisionLine s.cfg s.mem s.len s.cur s.flagsAt s.lengthAt with
  | error e =>
    rw [outcome] at stepped
    exact stepped
  | ok scan =>
    rw [outcome] at stepped
    exact ⟨_, stepped, rfl, rfl, State.commit_status_ne_error _ _ _⟩

/-! ### The forms -/

/-- Settles O11: a form's pass is the list on its own operands. -/
theorem formsRaiseByDecisionList : Obligations.FormsRaiseByDecisionList := by
  intro i s ctr len e form tail line
  rw [exec_form i form ctr len tail, State.runRecord, decodePass_of_line_error line]
  rfl

/-- Settles O14: the fourth line of the list, whatever the header says behind it. -/
theorem msbfRaisesUnsupportedByteOrder : Obligations.MsbfRaisesUnsupportedByteOrder := by
  intro s flags ctr len big magic room
  apply formsRaiseByDecisionList (.recMSBF flags ctr len) s ctr len _ rfl rfl
  rw [decisionLine_eq, if_neg (by omega), if_neg (not_not_intro magic), if_neg (by omega)]
  exact if_pos big

/-- H does not see the ignored bits. -/
theorem headerLen_flagsByte (ign : BitVec 3) (low : BitVec 5) :
    headerLen (flagsByte ign low) = headerLen (flagsByte 0#3 low) := by
  obtain ⟨ueh_bit, -, weid_bit, wsid_bit, wtms_bit, -⟩ := flagsByte_bits ign low
  obtain ⟨ueh_bit', -, weid_bit', wsid_bit', wtms_bit', -⟩ := flagsByte_bits 0#3 low
  simp only [headerLen_eq, nExt, ueh, ueh_bit, weid_bit, wsid_bit, wtms_bit, ueh_bit', weid_bit', wsid_bit', wtms_bit']

/-- Settles O15: three presence flags give n_ext four values, UEH gives ueh two. -/
theorem headerLengths : Obligations.HeaderLengths := by
  intro f
  have ext_le := nExt_le_three f
  have ueh_le := ueh_le_one f
  refine ⟨headerLen_eq f, ?_⟩
  rw [headerLen_eq]
  interval_cases nExt f <;> interval_cases ueh f <;> decide

/-- A little-endian form's word runs the pass; where the record fits, it commits the Record there. -/
theorem runRecord_of_fits {s : State} {flags ctr : Byte} {len : BitVec 16} (little : flagMSBF flags = false)
    (fits : RecordFits s len (headerLen flags)) :
    s.runRecord flags ctr len = s.commit (passRecord s.mem s.cur ⟨flags, ctr, len⟩) (s.cur + 16 + len.toNat) := by
  obtain ⟨magic, counted, inside⟩ := fits
  have committed := decodePass_of_fits (c := s.cfg) (std := ⟨flags, ctr, len⟩) ⟨magic, little, counted, inside⟩
  rw [State.runRecord, committed, State.endPass_ok]

/-- The commit of a Record without an extended header, as the statements write it. -/
theorem commit_passRecord_plain {s : State} {flags ctr : Byte} {len : BitVec 16} (no_ext : flagUEH flags = false) :
    s.commit (passRecord s.mem s.cur ⟨flags, ctr, len⟩) (s.cur + 16 + len.toNat) =
      committedState s (plainRegs s flags ctr len (headerLen flags))
        (recordAt s flags ctr len none (headerLen flags)) len := by
  have record : passRecord s.mem s.cur ⟨flags, ctr, len⟩ = recordAt s flags ctr len none (headerLen flags) := by
    simp only [passRecord, extendedHeaderAt, no_ext, Bool.false_eq_true, if_false]
    rfl
  have shown : RecRegs.ofRecord (recordAt s flags ctr len none (headerLen flags)) =
      plainRegs s flags ctr len (headerLen flags) := by
    simp only [RecRegs.ofRecord, recordAt, no_ext]
    rfl
  rw [record, State.commit, shown]
  rfl

/-- The commit of a Record with an extended header, as the statements write it. -/
theorem commit_passRecord_extended {s : State} {flags ctr : Byte} {len : BitVec 16} (has_ext : flagUEH flags = true) :
    s.commit (passRecord s.mem s.cur ⟨flags, ctr, len⟩) (s.cur + 16 + len.toNat) =
      committedState s (extRegs s flags ctr len (extOffset flags) (headerLen flags))
        (recordAt s flags ctr len (some (extendedAt s (extOffset flags))) (headerLen flags)) len := by
  have record : passRecord s.mem s.cur ⟨flags, ctr, len⟩ =
      recordAt s flags ctr len (some (extendedAt s (extOffset flags))) (headerLen flags) := by
    simp only [passRecord, extendedHeaderAt, has_ext, if_true, Nat.add_assoc, recordAt, extendedAt, extOffset]
    rfl
  have shown : RecRegs.ofRecord (recordAt s flags ctr len (some (extendedAt s (extOffset flags))) (headerLen flags)) =
      extRegs s flags ctr len (extOffset flags) (headerLen flags) := by
    simp only [RecRegs.ofRecord, recordAt, has_ext]
    rfl
  rw [record, State.commit, shown]
  rfl

theorem extOffset_flagsByte (ign : BitVec 3) (low : BitVec 5) :
    extOffset (flagsByte ign low) = extOffset (flagsByte 0#3 low) := by
  obtain ⟨-, -, weid_bit, wsid_bit, wtms_bit, -⟩ := flagsByte_bits ign low
  obtain ⟨-, -, weid_bit', wsid_bit', wtms_bit', -⟩ := flagsByte_bits 0#3 low
  simp only [extOffset, nExt, weid_bit, wsid_bit, wtms_bit, weid_bit', wsid_bit', wtms_bit']

/-- A form is a row's low bits; what it commits follows from them. -/
theorem plainFormCommits_of_low {mk : BitVec 3 → Byte → BitVec 16 → Instr} {low : BitVec 5}
    (runs : ∀ ign ctr len s, exec (mk ign ctr len) s = .next (s.runRecord (flagsByte ign low) ctr len))
    (no_ext : low.getLsbD 0 = false) (little : low.getLsbD 1 = false) :
    PlainFormCommits mk low (headerLen (flagsByte 0#3 low)) := by
  intro s ign ctr len fits
  obtain ⟨ueh_bit, msbf_bit, -⟩ := flagsByte_bits ign low
  rw [← headerLen_flagsByte ign] at fits ⊢
  rw [runs, runRecord_of_fits (msbf_bit.trans little) fits, commit_passRecord_plain (ueh_bit.trans no_ext)]

theorem extFormCommits_of_low {mk : BitVec 3 → Byte → BitVec 16 → Instr} {low : BitVec 5}
    (runs : ∀ ign ctr len s, exec (mk ign ctr len) s = .next (s.runRecord (flagsByte ign low) ctr len))
    (has_ext : low.getLsbD 0 = true) (little : low.getLsbD 1 = false) :
    ExtFormCommits mk low (extOffset (flagsByte 0#3 low)) (headerLen (flagsByte 0#3 low)) := by
  intro s ign ctr len fits
  obtain ⟨ueh_bit, msbf_bit, -⟩ := flagsByte_bits ign low
  rw [← headerLen_flagsByte ign] at fits ⊢
  rw [← extOffset_flagsByte ign, runs, runRecord_of_fits (msbf_bit.trans little) fits,
    commit_passRecord_extended (ueh_bit.trans has_ext)]

/-- Settles O12: each row's H is that of its low bits. -/
theorem plainFormsCommit : Obligations.PlainFormsCommit :=
  ⟨plainFormCommits_of_low (low := 0x00#5) (fun _ _ _ _ => rfl) rfl rfl,
    plainFormCommits_of_low (low := 0x04#5) (fun _ _ _ _ => rfl) rfl rfl,
    plainFormCommits_of_low (low := 0x08#5) (fun _ _ _ _ => rfl) rfl rfl,
    plainFormCommits_of_low (low := 0x0C#5) (fun _ _ _ _ => rfl) rfl rfl,
    plainFormCommits_of_low (low := 0x10#5) (fun _ _ _ _ => rfl) rfl rfl,
    plainFormCommits_of_low (low := 0x14#5) (fun _ _ _ _ => rfl) rfl rfl,
    plainFormCommits_of_low (low := 0x18#5) (fun _ _ _ _ => rfl) rfl rfl,
    plainFormCommits_of_low (low := 0x1C#5) (fun _ _ _ _ => rfl) rfl rfl⟩

/-- Settles O13: each row's H and the offset of its extended header are those of its low bits. -/
theorem extendedFormsCommit : Obligations.ExtendedFormsCommit :=
  ⟨extFormCommits_of_low (low := 0x01#5) (fun _ _ _ _ => rfl) rfl rfl,
    extFormCommits_of_low (low := 0x05#5) (fun _ _ _ _ => rfl) rfl rfl,
    extFormCommits_of_low (low := 0x09#5) (fun _ _ _ _ => rfl) rfl rfl,
    extFormCommits_of_low (low := 0x0D#5) (fun _ _ _ _ => rfl) rfl rfl,
    extFormCommits_of_low (low := 0x11#5) (fun _ _ _ _ => rfl) rfl rfl,
    extFormCommits_of_low (low := 0x15#5) (fun _ _ _ _ => rfl) rfl rfl,
    extFormCommits_of_low (low := 0x19#5) (fun _ _ _ _ => rfl) rfl rfl,
    extFormCommits_of_low (low := 0x1D#5) (fun _ _ _ _ => rfl) rfl rfl⟩

/-! ### A committed Record -/

/-- A commit's SCAN is the end of a record of 26 bytes at least, inside the buffer. -/
theorem scan_of_decodeNext_ok {c : Config} {m : Memory} {len start scan : Nat} {r : Record}
    (pass : decodeNext c m len start = .ok (r, scan)) :
    scan = start + 16 + (standardAt m start).totalLength.toNat ∧ start + 26 ≤ scan ∧ scan ≤ len := by
  obtain ⟨⟨-, -, counted, inside⟩, -, rfl⟩ := (decodeNext_ok_iff c m len start scan r).mp pass
  have header_ge := headerLen_ge (standardAt m start).flags
  exact ⟨rfl, by omega, inside⟩

/-- Settles O32: a step that does not end in ERROR commits. -/
theorem commitAdvancesByRecordLength : Obligations.CommitAdvancesByRecordLength := by
  intro s t ready stepped ok
  obtain ⟨r, scan, pass, rfl⟩ := commit_of_step_ok ready stepped ok
  exact scan_of_decodeNext_ok pass

theorem extendedHeaderAt_isSome (m : Memory) (f : Byte) (a : Nat) : (extendedHeaderAt m f a).isSome = flagUEH f := by
  unfold extendedHeaderAt
  split
  · next present => rw [present]; rfl
  · next absent => rw [Bool.eq_false_of_not_eq_true absent]; rfl

/-- The extended header of a pass, where there is one. -/
theorem extendedHeaderAt_eq_some {m : Memory} {f : Byte} {a : Nat} {x : ExtendedHeader}
    (present : extendedHeaderAt m f a = some x) :
    flagUEH f = true ∧ x = ⟨m.read a, m.read (a + 1), trimView m (a + 2), trimView m (a + 6)⟩ := by
  unfold extendedHeaderAt at present
  split at present
  · next announced => exact ⟨announced, (Option.some.inj present).symm⟩
  · cases present

/-- Settles O33: a commit is the Record at START of a record that fits. -/
theorem committedRecordIsLegal : Obligations.CommittedRecordIsLegal := by
  intro c m len start scan r pass
  obtain ⟨⟨magic, little, counted, -⟩, rfl, -⟩ := (decodeNext_ok_iff c m len start scan r).mp pass
  have header_len := headerLen_eq (standardAt m start).flags
  have sender := trimView_len_bounds m (start + 12)
  have total_lt := (standardAt m start).totalLength.isLt
  refine ⟨magic, rfl, sender.1, sender.2, little, ?counted, extendedHeaderAt_isSome _ _ _, ?ids, ?pay_off, ?pay_len⟩
  case counted =>
    simp only [passRecord]
    omega
  case ids =>
    intro x present
    obtain ⟨-, rfl⟩ := extendedHeaderAt_eq_some present
    have apid := trimView_len_bounds m (start + 20 + 4 * nExt (standardAt m start).flags + 2)
    have ctid := trimView_len_bounds m (start + 20 + 4 * nExt (standardAt m start).flags + 6)
    simp only [trimView_off, passRecord]
    exact ⟨by omega, apid.1, apid.2, by omega, ctid.1, ctid.2⟩
  case pay_off =>
    simp only [passRecord]
    omega
  case pay_len =>
    simp only [passRecord]
    omega

/-- Settles O34: an identifier's view ends inside its slot, and PAYLEN counts what total_length leaves. -/
theorem viewsInsideRecord : Obligations.ViewsInsideRecord := by
  intro c m len start scan r pass
  obtain ⟨⟨-, -, counted, inside⟩, rfl, rfl⟩ := (decodeNext_ok_iff c m len start scan r).mp pass
  have sender := trimView_len_bounds m (start + 12)
  have header_ge := headerLen_ge (standardAt m start).flags
  refine ⟨?sender, ?ids, ?payload, inside⟩
  case sender =>
    simp only [passRecord, storageAt, trimView_off]
    omega
  case ids =>
    intro x present
    obtain ⟨announced, rfl⟩ := extendedHeaderAt_eq_some present
    have apid := trimView_len_bounds m (start + 20 + 4 * nExt (standardAt m start).flags + 2)
    have ctid := trimView_len_bounds m (start + 20 + 4 * nExt (standardAt m start).flags + 6)
    have header_len := (headerLen_cases (standardAt m start).flags).1 announced
    simp only [trimView_off, passRecord]
    constructor
    · omega
    · omega
  case payload =>
    simp only [passRecord]
    omega

/-- Settles O47: a commit's SCAN is at most LEN, and at LEN the run is done. -/
theorem statusTransitions : Obligations.StatusTransitions := by
  intro c s t ran
  cases c with
  | reset =>
    obtain rfl := Host.Outcome.next.inj ran
    exact s.resetBlock_status
  | load bs =>
    obtain ⟨-, rfl⟩ := (load_next_iff s t bs).mp ran
    simp only [State.loadBuffer_status, List.length_eq_zero_iff]
  | next =>
    obtain ⟨halted, rfl⟩ | ⟨ready, r, scan, pass, rfl⟩ | ⟨ready, e, pass, rfl⟩ := step_cases ran
    · simp only [halted, if_false]
    · have scan_le := (scan_of_decodeNext_ok pass).2.2
      simp only [ready, pass, if_true, State.commit_status]
      rcases Nat.lt_or_eq_of_le scan_le with below | rfl
      · exact .inl ⟨below, if_neg (Nat.ne_of_lt below)⟩
      · exact .inr ⟨rfl, if_pos rfl⟩
    · simp only [ready, pass, if_true, State.raise_status]

/-! ### What the host reads after an error -/

/-- InvalidMagic is the list's second line only. -/
theorem line_of_invalidMagic {c : Config} {m : Memory} {len start off : Nat} {f : Byte} {l : BitVec 16}
    (line : decisionLine c m len start f l = .error ⟨.invalidMagic, off⟩) :
    16 ≤ len - start ∧ m.read4 start ≠ c.magic ∧ off = start := by
  rw [decisionLine_eq] at line
  split_ifs at line with short wrong <;> cases line
  exact ⟨Nat.not_lt.mp short, wrong, rfl⟩

/-- PayloadLengthOutOfRange is the list's last error only. -/
theorem line_of_payloadLengthOutOfRange {c : Config} {m : Memory} {len start off : Nat} {f : Byte} {l : BitVec 16}
    (line : decisionLine c m len start f l = .error ⟨.payloadLengthOutOfRange, off⟩) :
    headerLen f ≤ len - start ∧ off = start + headerLen f ∧
      (l.toNat < headerLen f - 16 ∨ 16 + l.toNat > len - start) := by
  rw [decisionLine_eq] at line
  split_ifs at line with _ _ _ _ _ _ short out <;> cases line
  exact ⟨Nat.not_lt.mp short, rfl, out⟩

/-- The host computes PAYLEN again from the record's header where its 20 bytes are in the buffer. -/
theorem payLenAt_of_inside {s : State} {start : Nat} (inside : start + 20 ≤ s.len) :
    s.payLenAt start = .ok (payLen (standardAt s.mem start).totalLength start
      (start + headerLen (standardAt s.mem start).flags)) :=
  (State.readField_ok_iff s (start + 16) 4 _ _).mpr ⟨by omega, rfl⟩

/-- Settles O41: the line of the list that raises an error says where it failed, and that its bytes are there. -/
theorem hostReadsErrorRegisters : Obligations.HostReadsErrorRegisters := by
  refine ⟨fun s e => ⟨?code, rfl, rfl, rfl, rfl⟩, fun s t ready stepped failed => ?raised⟩
  case code =>
    obtain ⟨error, off⟩ := e
    cases error <;> rfl
  case raised =>
    obtain ⟨⟨error, off⟩, pass, rfl⟩ := raise_of_step_error ready stepped failed
    have line := line_of_decodeNext_error pass
    constructor
    · intro code
      obtain rfl : error = .invalidMagic := ErrCode.err.inj code
      obtain ⟨room, wrong, rfl⟩ := line_of_invalidMagic line
      have inside : s.cur + 4 ≤ s.len := by omega
      exact ⟨_, State.offendingPattern_of_errOff (s.raise _) _ rfl inside, rfl, wrong⟩
    · intro code
      obtain rfl : error = .payloadLengthOutOfRange := ErrCode.err.inj code
      obtain ⟨header_fits, rfl, out⟩ := line_of_payloadLengthOutOfRange line
      have header_ge := headerLen_ge (standardAt s.mem s.cur).flags
      have inside : s.cur + 20 ≤ s.len := by omega
      refine ⟨_, _, payLenAt_of_inside (s := s.raise _) inside, rfl, ?_⟩
      simp only [State.raise_mem, State.raise_cur, State.raise_len, payLen_after_header]
      omega

end Sys2Proof.Machine

/-! The classes' own instructions (44_extended_header.md section 3, log 9). A class instruction's word is the byte it
was decoded from, so it outputs CLASSIFY of that byte, as a commit does. -/

namespace Sys2Proof.Machine

/-- Running the class of `b` latches `b` and CLASSIFY of it, and nothing else. -/
theorem exec_decodeMsgInfo (b : Byte) (s : State) :
    exec (decodeMsgInfo b) s = .next { s with regs := s.regs.latchClass b (classify b) } := by
  obtain ⟨mtin, mstp, verb, type, output, byte, of_fields⟩ := exec_class s (decodeMsgInfo b) (decodeMsgInfo_space b)
  rw [decodeMsgInfo_opcodeByte] at byte
  rw [output, State.outputClass, byte, classify_infoByte, of_fields (decodeMsgInfo_wellFormed b)]

/-- Settles O23: `latchClass` writes the five registers. -/
theorem classInstructionIsClassify : Obligations.ClassInstructionIsClassify := exec_decodeMsgInfo

/-- The registers of a Record with an extended header already hold what its class outputs. -/
theorem RecRegs.ofRecord_latchClass {r : Record} {b : Byte} (shown : (RecRegs.ofRecord r).msgInfo = some b) :
    (RecRegs.ofRecord r).latchClass b (classify b) = RecRegs.ofRecord r := by
  rw [RecRegs.ofRecord_msgInfo, Option.map_eq_some_iff] at shown
  obtain ⟨x, extended, rfl⟩ := shown
  simp only [RecRegs.ofRecord, extended, RecRegs.latchExtended, RecRegs.latchClass_idem]

/-- Settles O24: after an error MSG_INFO holds no value; after a commit the class's output is there already. -/
theorem commitRunsMessageClass : Obligations.CommitRunsMessageClass := by
  intro s t b ready stepped info
  rw [exec_decodeMsgInfo]
  obtain ⟨r, scan, rfl⟩ | ⟨e, rfl⟩ := step_of_ready_cases ready stepped
  · rw [State.commit_regs] at info ⊢
    rw [RecRegs.ofRecord_latchClass info]
    rfl
  · rw [State.raise_regs] at info
    cases info

/-! ### The class rules -/

/-- A byte decodes to the class whose opcode byte it is, and that class outputs CLASSIFY's type. -/
theorem classRule_of_mtype {mask pattern : Byte} {i : Byte → Instr} {t : MessageType}
    (row : ∀ b : Byte, b &&& mask = pattern →
      (i b).space = .msgInfo ∧ (i b).wellFormed = true ∧ (i b).opcodeByte = b)
    (class_type : ∀ b : Byte, b &&& mask = pattern → (classify b).mtype = t) : ClassRule mask pattern i t := by
  intro b selected
  obtain ⟨cls, wf, byte⟩ := row b selected
  have decoded : decodeMsgInfo b = i b := by
    have found := decodeMsgInfo_of_opcodeByte cls wf
    rwa [byte] at found
  refine ⟨decoded, fun s => ?_⟩
  rw [← decoded, exec_decodeMsgInfo, ← class_type b selected]
  rfl

/-- The classes `b & 0xFE = pattern`: the row is the pattern's MTIN and MSTP, with VERB from the byte. -/
theorem classRule_of_mask_FE {pattern : Byte} {mk : Bool → Instr}
    (row : ∀ verb, (mk verb).space = .msgInfo ∧ (mk verb).wellFormed = true ∧
      (mk verb).opcodeByte = infoByte (infoMtin pattern) (infoMstp pattern) verb) :
    ClassRule 0xFE#8 pattern (fun b => mk (b.getLsbD 0)) (classify pattern).mtype := by
  refine classRule_of_mtype (fun b selected => ?_) fun b => classify_mtype_of_fields_selected rfl rfl
  obtain ⟨cls, wf, byte⟩ := row (infoVerb b)
  refine ⟨cls, wf, byte.trans ?_⟩
  rw [← infoMtin_of_selected (mask := 0xFE#8) rfl selected, ← infoMstp_of_selected (mask := 0xFE#8) rfl selected,
    infoByte_of_fields]

/-- The classes `b & 0x0E = pattern` outside Log: the row is the pattern's MSTP, with MTIN and VERB from the byte. -/
theorem classRule_of_mask_0E {pattern : Byte} {mk : BitVec 4 → Bool → Instr} (not_log : infoMstp pattern ≠ 0#3)
    (row : ∀ mtin verb, (mk mtin verb).space = .msgInfo ∧ (mk mtin verb).wellFormed = true ∧
      (mk mtin verb).opcodeByte = infoByte mtin (infoMstp pattern) verb) :
    ClassRule 0x0E#8 pattern (fun b => mk (b.extractLsb' 4 4) (b.getLsbD 0)) (classify pattern).mtype := by
  refine classRule_of_mtype (fun b selected => ?_) fun b => classify_mtype_of_mstp_selected rfl not_log
  obtain ⟨cls, wf, byte⟩ := row (infoMtin b) (infoVerb b)
  refine ⟨cls, wf, byte.trans ?_⟩
  rw [← infoMstp_of_selected (mask := 0x0E#8) rfl selected, infoByte_of_fields]

theorem infoByte_of_rsvHi {b : Byte} (selected : b &&& 0x8E#8 = 0x80#8) :
    infoByte (infoMtin b) 0#3 (infoVerb b) = b := by
  have mstp : infoMstp b = 0#3 := infoMstp_of_selected rfl selected
  rw [← mstp, infoByte_of_fields]

/-- Settles O19: eight rows fix MSTP and MTIN, the ninth MSTP and the top bit of MTIN. -/
theorem logClassesOutput : Obligations.LogClassesOutput := by
  have top_bit : ∀ b : Byte, b &&& 0x8E#8 = 0x80#8 → (infoMtin b).getLsbD 3 = true := by decide
  exact ⟨classRule_of_mask_FE (pattern := 0x10#8) fun _ => ⟨rfl, rfl, rfl⟩,
    classRule_of_mask_FE (pattern := 0x20#8) fun _ => ⟨rfl, rfl, rfl⟩,
    classRule_of_mask_FE (pattern := 0x30#8) fun _ => ⟨rfl, rfl, rfl⟩,
    classRule_of_mask_FE (pattern := 0x40#8) fun _ => ⟨rfl, rfl, rfl⟩,
    classRule_of_mask_FE (pattern := 0x50#8) fun _ => ⟨rfl, rfl, rfl⟩,
    classRule_of_mask_FE (pattern := 0x60#8) fun _ => ⟨rfl, rfl, rfl⟩,
    classRule_of_mask_FE (pattern := 0x00#8) fun _ => ⟨rfl, rfl, rfl⟩,
    classRule_of_mask_FE (pattern := 0x70#8) fun _ => ⟨rfl, rfl, rfl⟩,
    classRule_of_mtype (fun b selected => ⟨rfl, top_bit b selected, infoByte_of_rsvHi selected⟩)
      fun _ => classify_mtype_of_rsvHi⟩

/-- Settles O20: three rows fix MSTP, the fourth its top bit. -/
theorem otherClassesOutput : Obligations.OtherClassesOutput := by
  have top_bit : ∀ b : Byte, b &&& 0x08#8 = 0x08#8 → (infoMstp b).getLsbD 2 = true := by decide
  exact ⟨classRule_of_mask_0E (pattern := 0x02#8) (by decide) fun _ _ => ⟨rfl, rfl, rfl⟩,
    classRule_of_mask_0E (pattern := 0x04#8) (by decide) fun _ _ => ⟨rfl, rfl, rfl⟩,
    classRule_of_mask_0E (pattern := 0x06#8) (by decide) fun _ _ => ⟨rfl, rfl, rfl⟩,
    classRule_of_mtype (fun b selected => ⟨rfl, top_bit b selected, infoByte_of_fields b⟩)
      fun _ => classify_mtype_of_rsv⟩

end Sys2Proof.Machine

/-! The identifiers' views and the timestamp of a record (40_nulltrim_text.md R101, 41_storage_header.md R113 to
R115). -/

namespace Sys2Proof.Machine

/-- The view of a slot whose last non-zero byte is known has the bytes up to it. -/
theorem trimView_of_lastNonZero {m : Memory} {o k : Nat} (four : k < 4)
    (last : lastNonZero (m.read4 o).toList = k + 1) : trimView m o = ⟨o, k + 1⟩ := by
  have slot_len : (m.read4 o).toList.length = 4 := rfl
  rw [trimView, nullTrim_of_lastNonZero_succ last, List.length_take, slot_len, min_eq_left four]

/-- Settles O28: the index of the last non-zero byte, looked for from the slot's end. -/
theorem trimViewOfSlot : Obligations.TrimViewOfSlot := by
  intro m o
  by_cases b3 : m.read (o + 3) = 0#8
  · by_cases b2 : m.read (o + 2) = 0#8
    · by_cases b1 : m.read (o + 1) = 0#8
      · by_cases b0 : m.read o = 0#8
        · have none_found : lastNonZero (m.read4 o).toList = 0 := by
            simp [Memory.read4, Bytes4.toList, lastNonZero, b0, b1, b2, b3]
          rw [trimView, nullTrim_of_lastNonZero_zero none_found]
          simp only [b0, b1, b2, b3, ne_eq, not_true, if_false]
          rfl
        · rw [trimView_of_lastNonZero (k := 0) (by decide)
            (by simp [Memory.read4, Bytes4.toList, lastNonZero, b0, b1, b2, b3])]
          simp [b0, b1, b2, b3]
      · rw [trimView_of_lastNonZero (k := 1) (by decide)
          (by simp [Memory.read4, Bytes4.toList, lastNonZero, b1, b2, b3])]
        simp [b1, b2, b3]
    · rw [trimView_of_lastNonZero (k := 2) (by decide) (by simp [Memory.read4, Bytes4.toList, lastNonZero, b2, b3])]
      simp [b2, b3]
  · rw [trimView_of_lastNonZero (k := 3) (by decide) (by simp [Memory.read4, Bytes4.toList, lastNonZero, b3])]
    simp [b3]

/-- Settles O30: a non-negative field is below `2^31`, and below 2148 whole seconds. -/
theorem timestampBounds : Obligations.TimestampBounds := by
  intro seconds micros nonneg
  obtain ⟨sec, nsec⟩ := timestampCarries seconds micros nonneg
  have micros_lt : micros.toNat < 2 ^ 31 := by
    have signed := BitVec.toInt_eq_toNat_cond micros
    have := micros.isLt
    split at signed <;> omega
  have seconds_lt := seconds.isLt
  rw [sec, nsec]
  exact ⟨by omega, by omega, Nat.dvd_mul_left _ _, by omega, by omega, by omega⟩

/-- Settles O31: a negative field is one whose sign bit is set. -/
theorem negativeMicrosecondsAreOpen : Obligations.NegativeMicrosecondsAreOpen := by
  intro seconds micros negative
  have sign_set : micros.msb = true := by
    rw [BitVec.msb_eq_toInt, decide_eq_true_iff]
    exact negative
  exact if_pos sign_set

end Sys2Proof.Machine

/-! Valid records (45_record_decoder.md R182 to R184). Where the buffer holds a byte string, what a pass reads of it is
what `ValidRecord` and `recordOf` read of the string; so a pass commits exactly a valid record, and commits its
`recordOf`. -/

namespace Sys2Proof.Machine

/-- The buffer holds the byte string `bs` at `start`. -/
def HoldsAt (m : Memory) (start : Nat) (bs : List Byte) : Prop :=
  ∀ k, k < bs.length → m.read (start + k) = bs.getD k 0#8

theorem holdsAt_readBytes (m : Memory) (start n : Nat) : HoldsAt m start (m.readBytes start n) := by
  intro k hk
  rw [Memory.readBytes_length] at hk
  exact (m.readBytes_getD start n k hk).symm

/-! ### The fields of a held byte string -/

section
variable {m : Memory} {start : Nat} {bs : List Byte}

theorem read4_of_holdsAt (held : HoldsAt m start bs) {a : Nat} (inside : a + 4 ≤ bs.length) :
    m.read4 (start + a) = slot4 bs a := by
  have b0 := held a (by omega)
  have b1 := held (a + 1) (by omega)
  have b2 := held (a + 2) (by omega)
  have b3 := held (a + 3) (by omega)
  simp only [Memory.read4, slot4, Nat.add_assoc, b0, b1, b2, b3]

theorem trimView_of_holdsAt (held : HoldsAt m start bs) {a : Nat} (inside : a + 4 ≤ bs.length) :
    trimView m (start + a) = slotView bs start a := by
  rw [trimView, slotView, read4_of_holdsAt held inside]

theorem standardAt_of_holdsAt (held : HoldsAt m start bs) (inside : 20 ≤ bs.length) :
    standardAt m start = ⟨bs.getD 16 0#8, bs.getD 17 0#8, be16u (bs.getD 18 0#8) (bs.getD 19 0#8)⟩ := by
  rw [standardAt, held 16 (by omega), held 17 (by omega), held 18 (by omega), held 19 (by omega)]

theorem storageAt_of_holdsAt (held : HoldsAt m start bs) (inside : 16 ≤ bs.length) :
    storageAt m start = (recordOf start bs).storage := by
  have pattern := read4_of_holdsAt held (a := 0) (by omega)
  rw [Nat.add_zero] at pattern
  simp only [storageAt, recordOf, pattern, read4_of_holdsAt held (a := 4) (by omega),
    read4_of_holdsAt held (a := 8) (by omega), trimView_of_holdsAt held (a := 12) inside]

/-- The extended header is read where the flags byte announces it. -/
theorem extendedHeaderAt_of_holdsAt (held : HoldsAt m start bs) {f : Byte} (inside : headerLen f ≤ bs.length) :
    extendedHeaderAt m f (start + 20 + 4 * nExt f) =
      if flagUEH f then some ⟨bs.getD (20 + 4 * nExt f) 0#8, bs.getD (20 + 4 * nExt f + 1) 0#8,
        slotView bs start (20 + 4 * nExt f + 2), slotView bs start (20 + 4 * nExt f + 6)⟩ else none := by
  unfold extendedHeaderAt
  split
  · next announced =>
    have header_len := (headerLen_cases f).1 announced
    rw [Nat.add_assoc start, held (20 + 4 * nExt f) (by omega), Nat.add_assoc start,
      held (20 + 4 * nExt f + 1) (by omega), Nat.add_assoc start, trimView_of_holdsAt held (by omega),
      Nat.add_assoc start, trimView_of_holdsAt held (by omega)]
  · rfl

end

/-! ### Valid records and passes -/

/-- The first four bytes of a byte string, as the pattern they are. -/
theorem take_four_eq_iff {bs : List Byte} (four : 4 ≤ bs.length) (p : Bytes4) :
    bs.take 4 = p.toList ↔ slot4 bs 0 = p := by
  match bs, four with
  | a :: b :: c :: d :: rest, _ =>
    obtain ⟨b0, b1, b2, b3⟩ := p
    simp [slot4, Bytes4.toList]

/-- The buffer holds a valid record below LEN exactly where a pass commits one of its length. -/
theorem validRecord_iff_passFits {c : Config} {m : Memory} {len start : Nat} {bs : List Byte}
    (held : HoldsAt m start bs) :
    (ValidRecord c.magic bs ∧ start + bs.length ≤ len) ↔
      PassFits c m len start (standardAt m start) ∧
        bs.length = 16 + (standardAt m start).totalLength.toNat := by
  have header_ge := headerLen_ge (standardAt m start).flags
  constructor
  · rintro ⟨⟨min_len, magic, little, counted, total⟩, inside⟩
    have std := standardAt_of_holdsAt held (by omega)
    rw [take_four_eq_iff (by omega), ← read4_of_holdsAt held (by omega)] at magic
    rw [std]
    exact ⟨⟨magic, little, by simp only; omega, by simp only; omega⟩, total⟩
  · rintro ⟨⟨magic, little, counted, inside⟩, total⟩
    have std := standardAt_of_holdsAt held (by omega)
    simp only [std] at little counted inside total header_ge
    refine ⟨⟨by omega, ?pattern, little, by omega, total⟩, by omega⟩
    rwa [take_four_eq_iff (by omega), ← read4_of_holdsAt held (by omega)]

/-- The Record of a pass over a valid record is that byte string's. -/
theorem passRecord_of_validRecord {magic : Bytes4} {m : Memory} {start : Nat} {bs : List Byte}
    (held : HoldsAt m start bs) (valid : ValidRecord magic bs) :
    passRecord m start (standardAt m start) = recordOf start bs := by
  obtain ⟨min_len, -, -, counted, total⟩ := valid
  have header_ge := headerLen_ge (bs.getD 16 0#8)
  have header_fits : headerLen (bs.getD 16 0#8) ≤ bs.length := by omega
  have pay_len : (be16u (bs.getD 18 0#8) (bs.getD 19 0#8)).toNat - (headerLen (bs.getD 16 0#8) - 16) =
      bs.length - headerLen (bs.getD 16 0#8) := by omega
  rw [standardAt_of_holdsAt held (by omega), passRecord, storageAt_of_holdsAt held (by omega),
    extendedHeaderAt_of_holdsAt held header_fits, pay_len]
  rfl

/-- A PASS COMMITS A VALID RECORD AND ITS RECORD, where the buffer holds it below LEN. -/
theorem decodeNext_of_validRecord {c : Config} {m : Memory} {len start : Nat} {bs : List Byte}
    (held : HoldsAt m start bs) (valid : ValidRecord c.magic bs) (inside : start + bs.length ≤ len) :
    decodeNext c m len start = .ok (recordOf start bs, start + bs.length) := by
  obtain ⟨fits, total⟩ := (validRecord_iff_passFits held).mp ⟨valid, inside⟩
  exact (decodeNext_ok_iff c m len start _ _).mpr ⟨fits, (passRecord_of_validRecord held valid).symm, by omega⟩

/-- And nothing else: the bytes a pass has committed are a valid record, and the Record is theirs. -/
theorem validRecord_of_decodeNext {c : Config} {m : Memory} {len start scan : Nat} {r : Record}
    (pass : decodeNext c m len start = .ok (r, scan)) :
    ValidRecord c.magic (m.readBytes start (scan - start)) ∧ scan ≤ len ∧
      r = recordOf start (m.readBytes start (scan - start)) := by
  obtain ⟨fits, rfl, rfl⟩ := (decodeNext_ok_iff c m len start scan r).mp pass
  have held := holdsAt_readBytes m start (start + 16 + (standardAt m start).totalLength.toNat - start)
  have total : (m.readBytes start (start + 16 + (standardAt m start).totalLength.toNat - start)).length =
      16 + (standardAt m start).totalLength.toNat := by
    rw [Memory.readBytes_length]
    omega
  obtain ⟨valid, -⟩ := (validRecord_iff_passFits held).mpr ⟨fits, total⟩
  exact ⟨valid, fits.inside, passRecord_of_validRecord held valid⟩

/-- Settles O35: the string is the bytes from the start to the pass's SCAN. -/
theorem commitsExactlyOnValidRecord : Obligations.CommitsExactlyOnValidRecord := by
  intro c m len start
  constructor
  · rintro ⟨r, scan, pass⟩
    obtain ⟨valid, scan_le, -⟩ := validRecord_of_decodeNext pass
    have advance := (scan_of_decodeNext_ok pass).2.1
    exact ⟨scan - start, by omega, valid⟩
  · rintro ⟨n, inside, valid⟩
    exact ⟨_, _, decodeNext_of_validRecord (holdsAt_readBytes m start n) valid (by rwa [Memory.readBytes_length])⟩

/-! ### Independence -/

theorem view_moved (start start' a n : Nat) : (⟨start + a - start + start', n⟩ : View) = ⟨start' + a, n⟩ := by
  rw [Nat.add_sub_cancel_left, Nat.add_comm]

/-- The Record of a byte string moves with it. -/
theorem recordOf_moved (start start' : Nat) (bs : List Byte) :
    (recordOf start bs).moved start start' = recordOf start' bs := by
  by_cases announced : flagUEH (bs.getD 16 0#8) = true
  · simp only [Record.moved, recordOf, announced, if_true, Option.map_some, slotView, view_moved]
  · simp only [Record.moved, recordOf, announced, Bool.false_eq_true, if_false, Option.map_none, slotView, view_moved]

/-- Settles O37: the bytes are the same valid record at either place, and its Record moves with it. -/
theorem recordDependsOnItsBytes : Obligations.RecordDependsOnItsBytes := by
  intro c m m' len len' start start' scan r pass same inside
  obtain ⟨valid, -, rfl⟩ := validRecord_of_decodeNext pass
  have bytes := Memory.readBytes_congr m m' start start' (scan - start) same
  have held := holdsAt_readBytes m' start' (scan - start)
  rw [bytes] at held
  have there := decodeNext_of_validRecord held valid (len := len') (by rwa [Memory.readBytes_length])
  rw [there, recordOf_moved, Memory.readBytes_length]

/-- With fewer than 20 bytes left, no line that looks at the standard header is reached. -/
theorem decisionLine_of_short {c : Config} {m : Memory} {len start : Nat} (short : len - start < 20) :
    ∃ e, ∀ f l, decisionLine c m len start f l = .error e := by
  simp only [decisionLine_eq, short, if_true]
  by_cases short_storage : len - start < 16
  · exact ⟨_, fun _ _ => if_pos short_storage⟩
  by_cases wrong : m.read4 start ≠ c.magic
  · exact ⟨_, fun _ _ => by rw [if_neg short_storage, if_pos wrong]⟩
  · exact ⟨_, fun _ _ => by rw [if_neg short_storage, if_neg wrong]⟩

/-- The list reads the pattern only once 16 bytes are known to be there. -/
theorem decisionLine_congr {c : Config} {m m' : Memory} {len start : Nat} (same : ∀ a, a < len → m'.read a = m.read a)
    (f : Byte) (l : BitVec 16) : decisionLine c m' len start f l = decisionLine c m len start f l := by
  by_cases short : len - start < 16
  · simp only [decisionLine_eq, short, if_true]
  · have pattern : m'.read4 start = m.read4 start := by
      rw [Memory.read4, same start (by omega), same (start + 1) (by omega), same (start + 2) (by omega),
        same (start + 3) (by omega)]
      rfl
    simp only [decisionLine_eq, pattern]

/-- A pass that raises, raises the same over any buffer that agrees below LEN. -/
theorem decodeNext_error_congr {c : Config} {m m' : Memory} {len start : Nat} {e : Raise}
    (same : ∀ a, a < len → m'.read a = m.read a) (pass : decodeNext c m len start = .error e) :
    decodeNext c m' len start = .error e := by
  have line := line_of_decodeNext_error pass
  rw [← decisionLine_congr same] at line
  rcases Nat.lt_or_ge (len - start) 20 with short | room
  · obtain ⟨e', lines⟩ := decisionLine_of_short (c := c) (m := m') short
    rw [lines] at line
    cases line
    exact decodePass_of_line_error (lines _ _) _
  · have std : standardAt m' start = standardAt m start := by
      rw [standardAt, same (start + 16) (by omega), same (start + 17) (by omega), same (start + 18) (by omega),
        same (start + 19) (by omega)]
      rfl
    rw [← std] at line
    exact decodePass_of_line_error line _

/-- Settles O38: a commit depends on the record's own bytes, and an error on the checks before it. -/
theorem passReadsBelowLen : Obligations.PassReadsBelowLen := by
  intro c m m' len start same
  cases pass : decodeNext c m len start with
  | error e => exact decodeNext_error_congr same pass
  | ok p =>
    obtain ⟨r, scan⟩ := p
    obtain ⟨valid, scan_le, rfl⟩ := validRecord_of_decodeNext pass
    have bytes := Memory.readBytes_congr m m' start start (scan - start) fun k hk => same _ (by omega)
    have held := holdsAt_readBytes m' start (scan - start)
    have advance := (scan_of_decodeNext_ok pass).2.1
    have scan_eq : start + (scan - start) = scan := by omega
    rw [bytes] at held
    rw [decodeNext_of_validRecord held valid (by rw [Memory.readBytes_length]; omega), Memory.readBytes_length, scan_eq]

/-! ### Exact consumption -/

theorem runFor_of_not_ready {s : State} (halted : s.status ≠ .ready) (fuel : Nat) : runFor fuel s = .next s := by
  cases fuel with
  | zero => rfl
  | succ fuel => rw [runFor, if_neg halted]

theorem runFor_succ_of_ready {s : State} (ready : s.status = .ready) (fuel : Nat) :
    runFor (fuel + 1) s = runFor fuel (s.endPass (decodeNext s.cfg s.mem s.len s.cur)) := by
  rw [runFor, if_pos ready, step_of_ready ready]

/-- A state of a run with the valid records `ss` still to come: they stand from CUR to the end of the buffer. -/
structure Awaits (s : State) (ss : List (List Byte)) : Prop where
  valid : ∀ r ∈ ss, ValidRecord s.cfg.magic r
  held : HoldsAt s.mem s.cur ss.flatten
  upto : s.cur + ss.flatten.length = s.len
  no_error : s.errCode = .noError
  status : s.status = if ss = [] then .done else .ready

theorem flatten_eq_nil_iff_of_valid {magic : Bytes4} {ss : List (List Byte)} (valid : ∀ r ∈ ss, ValidRecord magic r) :
    ss.flatten.length = 0 ↔ ss = [] := by
  cases ss with
  | nil => simp
  | cons r ss =>
    have min_len := (valid r List.mem_cons_self).1
    simp only [List.flatten_cons, List.length_append, reduceCtorEq, iff_false]
    omega

/-- One pass consumes the first of them. -/
theorem Awaits.commit {s : State} {r : List Byte} {ss : List (List Byte)} (awaits : Awaits s (r :: ss)) :
    decodeNext s.cfg s.mem s.len s.cur = .ok (recordOf s.cur r, s.cur + r.length) ∧
      Awaits (s.commit (recordOf s.cur r) (s.cur + r.length)) ss := by
  obtain ⟨valid, held, upto, no_error, -⟩ := awaits
  obtain ⟨first_valid, rest_valid⟩ := List.forall_mem_cons.mp valid
  rw [List.flatten_cons] at held
  rw [List.flatten_cons, List.length_append] at upto
  have first_held : HoldsAt s.mem s.cur r := fun k hk => by
    rw [held k (by rw [List.length_append]; omega), List.getD_append _ _ _ _ hk]
  have rest_held : HoldsAt s.mem (s.cur + r.length) ss.flatten := fun k hk => by
    rw [Nat.add_assoc, held (r.length + k) (by rw [List.length_append]; omega),
      List.getD_append_right _ _ _ _ (Nat.le_add_right _ _), Nat.add_sub_cancel_left]
  refine ⟨decodeNext_of_validRecord first_held first_valid (by omega), rest_valid, rest_held, ?upto, no_error, ?status⟩
  case upto =>
    rw [State.commit_cur, State.commit_len]
    omega
  case status =>
    have at_end : s.cur + r.length = s.len ↔ ss = [] := by
      rw [← flatten_eq_nil_iff_of_valid rest_valid]
      omega
    simp only [State.commit_status, at_end]

/-- RUN consumes them all, in order. -/
theorem runFor_of_awaits {ss : List (List Byte)} : ∀ {s : State} {fuel : Nat}, Awaits s ss → ss.length ≤ fuel →
    ∃ u, runFor fuel s = .next u ∧ Awaits u [] ∧ u.len = s.len ∧ u.recIndex = s.recIndex + ss.length ∧
      u.out = s.out ++ recordsOf s.cur ss := by
  induction ss with
  | nil =>
    intro s fuel awaits _
    have halted : s.status ≠ .ready := by rw [awaits.status]; exact Status.noConfusion
    exact ⟨s, runFor_of_not_ready halted fuel, awaits, rfl, rfl, (List.append_nil _).symm⟩
  | cons r ss ih =>
    intro s fuel awaits enough
    obtain ⟨pass, awaits'⟩ := awaits.commit
    obtain ⟨fuel, rfl⟩ : ∃ n, fuel = n + 1 := ⟨fuel - 1, by rw [List.length_cons] at enough; omega⟩
    obtain ⟨u, ran, done, len, index, out⟩ := ih awaits' (Nat.le_of_succ_le_succ enough)
    refine ⟨u, ?_, done, len, ?_, ?_⟩
    · rw [runFor_succ_of_ready awaits.status, pass, State.endPass_ok, ran]
    · rw [index, State.commit_recIndex, List.length_cons]
      omega
    · rw [out, State.commit_out, State.commit_cur, List.append_assoc]
      rfl

/-- A record has 26 bytes at least, so RUN's fuel is enough. -/
theorem length_le_div_minRecord {magic : Bytes4} {ss : List (List Byte)} (valid : ∀ r ∈ ss, ValidRecord magic r) :
    ss.length ≤ ss.flatten.length / minRecord := by
  rw [Nat.le_div_iff_mul_le (by decide), minRecord]
  induction ss with
  | nil => exact Nat.zero_le _
  | cons r ss ih =>
    obtain ⟨first_valid, rest_valid⟩ := List.forall_mem_cons.mp valid
    have min_len := first_valid.1
    have rest := ih rest_valid
    rw [List.flatten_cons, List.length_append, List.length_cons]
    omega

/-- Settles O36: LOAD leaves a state that awaits all the records, and RUN's fuel is enough for them. -/
theorem exactConsumption : Obligations.ExactConsumption := by
  intro s ss valid short
  have awaits : Awaits (s.loadBuffer ss.flatten) ss := by
    refine ⟨valid, fun k _ => ?held, Nat.zero_add _, rfl, ?status⟩
    case held => rw [State.loadBuffer_cur, Nat.zero_add, State.loadBuffer_mem, Memory.read_ofBytes]
    case status => simp only [State.loadBuffer_status, flatten_eq_nil_iff_of_valid valid]
  obtain ⟨u, ran, done, len, index, out⟩ :=
    runFor_of_awaits awaits (Nat.le_succ_of_le (length_le_div_minRecord valid))
  refine ⟨_, u, load_of_lt short, ran, done.status, done.upto, len, index.trans (Nat.zero_add _), done.no_error, out⟩

end Sys2Proof.Machine

/-! The invariant of a run (10_state.md R22, R31, R32, R34; 60_exceptions.md R250, R251). RESET and LOAD establish it,
both ends of a pass keep it, and what it says of OUT makes every emitted Record one that a pass has committed. -/

namespace Sys2Proof.Machine

/-! ### What the output registers show -/

theorem State.window_of_error {s : State} (failed : s.status = .error) : s.window = RecRegs.noValue := by
  simp only [State.window, failed]

theorem State.window_of_no_records {s : State} (empty : s.out = []) : s.window = RecRegs.noValue := by
  rw [State.window, empty]
  cases s.status <;> rfl

theorem State.window_of_last {s : State} {r : Record} (ok : s.status ≠ .error) (last : s.out.getLast? = some r) :
    s.window = RecRegs.ofRecord r := by
  rw [State.window, last]
  cases status : s.status with
  | error => exact absurd status ok
  | idle => rfl
  | ready => rfl
  | done => rfl

theorem State.window_commit (s : State) (r : Record) (scan : Nat) : (s.commit r scan).window = RecRegs.ofRecord r :=
  State.window_of_last (s.commit_status_ne_error r scan) List.getLast?_concat

/-- The registers show no value or an emitted Record. -/
theorem State.window_cases (s : State) :
    s.window = RecRegs.noValue ∨ ∃ r ∈ s.out, s.window = RecRegs.ofRecord r := by
  by_cases failed : s.status = .error
  · exact .inl (State.window_of_error failed)
  · cases last : s.out.getLast? with
    | none => exact .inl (State.window_of_no_records (List.getLast?_eq_none_iff.mp last))
    | some r => exact .inr ⟨r, List.mem_of_getLast? last, State.window_of_last failed last⟩

/-! ### OUT as a decode -/

/-- One Record more at the end of a decode. -/
theorem DecodesTo.concat {c : Config} {m : Memory} {len b b' : Nat} {r : Record}
    (pass : decodeNext c m len b = .ok (r, b')) :
    ∀ {a : Nat} {rs : List Record}, DecodesTo c m len a rs b → DecodesTo c m len a (rs ++ [r]) b'
  | _, [], decoded => by
    obtain rfl : _ = b := decoded
    exact ⟨b', pass, rfl⟩
  | _, _ :: _, ⟨a', first, rest⟩ => ⟨a', first, rest.concat pass⟩

/-- Every Record of a decode is one that a pass commits. -/
theorem DecodesTo.exists_pass {c : Config} {m : Memory} {len b : Nat} {r : Record} :
    ∀ {a : Nat} {rs : List Record}, DecodesTo c m len a rs b → r ∈ rs →
      ∃ start scan, decodeNext c m len start = .ok (r, scan)
  | a, r' :: rs, ⟨a', first, rest⟩, mem => by
    rcases List.mem_cons.mp mem with rfl | later
    · exact ⟨a, a', first⟩
    · exact rest.exists_pass later

theorem State.Inv.exists_pass {s : State} (inv : s.Inv) {r : Record} (emitted : r ∈ s.out) :
    ∃ start scan, decodeNext s.cfg s.mem s.len start = .ok (r, scan) :=
  inv.out_decodes.exists_pass emitted

/-! ### The invariant is kept -/

theorem State.Inv.raise {s : State} (inv : s.Inv) {e : Raise} (pass : decodeNext s.cfg s.mem s.len s.cur = .error e) :
    (s.raise e).Inv where
  aw_pos := inv.aw_pos
  len_lt := inv.len_lt
  mem_wf := inv.mem_wf
  mem_below := inv.mem_below
  cur_le := inv.cur_le
  out_length := inv.out_length
  out_decodes := inv.out_decodes
  regs_window := (State.window_of_error rfl).symm
  idle_empty := Status.noConfusion
  ready_cur := Status.noConfusion
  done_cur := Status.noConfusion
  no_error ok := absurd rfl ok
  some_error _ := ⟨e, pass, rfl, rfl, rfl⟩

theorem State.Inv.commit {s : State} (inv : s.Inv) (ready : s.status = .ready) {r : Record} {scan : Nat}
    (pass : decodeNext s.cfg s.mem s.len s.cur = .ok (r, scan)) : (s.commit r scan).Inv where
  aw_pos := inv.aw_pos
  len_lt := inv.len_lt
  mem_wf := inv.mem_wf
  mem_below := inv.mem_below
  cur_le := (scan_of_decodeNext_ok pass).2.2
  out_length := by
    rw [State.commit_out, List.length_append, inv.out_length]
    rfl
  out_decodes := inv.out_decodes.concat pass
  regs_window := (s.window_commit r scan).symm
  idle_empty idle := by
    rw [State.commit_status] at idle
    split at idle <;> cases idle
  ready_cur goes_on := by
    rw [State.commit_status] at goes_on
    split at goes_on
    · cases goes_on
    · next not_end => exact Nat.lt_of_le_of_ne (scan_of_decodeNext_ok pass).2.2 not_end
  done_cur done := by
    rw [State.commit_status] at done
    split at done
    · assumption
    · cases done
  no_error _ := inv.no_error (by rw [ready]; exact Status.noConfusion)
  some_error failed := absurd failed (s.commit_status_ne_error r scan)

/-- Settles O52: a step does nothing, commits, or enters ERROR. -/
theorem stepKeepsInv : Obligations.StepKeepsInv := by
  intro s t inv stepped
  obtain ⟨-, rfl⟩ | ⟨ready, r, scan, pass, rfl⟩ | ⟨-, e, pass, rfl⟩ := step_cases stepped
  · exact inv
  · exact inv.commit ready pass
  · exact inv.raise pass

/-! ### The invariant is established -/

theorem State.resetOf_inv {c : Config} (aw_pos : 0 < c.aw) : (State.resetOf c).Inv where
  aw_pos := aw_pos
  len_lt := Nat.two_pow_pos c.aw
  mem_wf := rfl
  mem_below := rfl
  cur_le := Nat.le_refl 0
  out_length := rfl
  out_decodes := rfl
  regs_window := rfl
  idle_empty _ := ⟨rfl, rfl⟩
  ready_cur := Status.noConfusion
  done_cur := Status.noConfusion
  no_error _ := ⟨rfl, rfl, rfl⟩
  some_error := Status.noConfusion

theorem State.loadBuffer_status_ne_error (s : State) (bs : List Byte) : (s.loadBuffer bs).status ≠ .error := by
  rw [State.loadBuffer_status]
  split <;> exact Status.noConfusion

theorem State.loadBuffer_inv {s : State} {bs : List Byte} (aw_pos : 0 < s.cfg.aw) (short : bs.length < 2 ^ s.cfg.aw) :
    (s.loadBuffer bs).Inv where
  aw_pos := aw_pos
  len_lt := short
  mem_wf := (s.loadBuffer_wf bs).1
  mem_below := (s.loadBuffer_wf bs).2
  cur_le := Nat.zero_le _
  out_length := rfl
  out_decodes := rfl
  regs_window := (State.window_of_no_records rfl).symm
  idle_empty idle := by
    rw [State.loadBuffer_status] at idle
    split at idle <;> cases idle
  ready_cur ready := by
    rw [State.loadBuffer_status] at ready
    split at ready
    · cases ready
    · next not_empty => exact Nat.pos_of_ne_zero not_empty
  done_cur done := by
    rw [State.loadBuffer_status] at done
    split at done
    · next empty => exact empty.symm
    · cases done
  no_error _ := ⟨rfl, rfl, rfl⟩
  some_error failed := absurd failed (s.loadBuffer_status_ne_error bs)

/-- Settles O53: AW of the unspecified configuration is one more than a natural number. -/
theorem resetHasInv : Obligations.ResetHasInv := State.resetOf_inv (Nat.succ_pos _)

/-- Settles O54: a legal configuration has a positive AW, and LOAD's check bounds LEN. -/
theorem commandsEstablishInv : Obligations.CommandsEstablishInv := by
  intro c s t not_next legal ran
  have aw_pos : 0 < s.cfg.aw := of_decide_eq_true legal
  cases c with
  | reset =>
    obtain rfl := Host.Outcome.next.inj ran
    exact State.resetOf_inv aw_pos
  | load bs =>
    obtain ⟨short, rfl⟩ := (load_next_iff s t bs).mp ran
    exact State.loadBuffer_inv aw_pos short
  | next => exact absurd rfl not_next

/-! ### A run ends -/

/-- Every commit takes 26 bytes of what remains, so fuel for one pass more than those bytes allow is never used up. -/
theorem runFor_ends {fuel : Nat} : ∀ {s : State}, s.Inv → s.len - s.cur < minRecord * fuel →
    ∃ t, runFor fuel s = .next t ∧ t.status ≠ .ready ∧ t.Inv ∧ s.recIndex ≤ t.recIndex ∧
      minRecord * (t.recIndex - s.recIndex) ≤ s.len - s.cur := by
  induction fuel with
  | zero => exact fun _ enough => absurd enough (Nat.not_lt_zero _)
  | succ fuel ih =>
    intro s inv enough
    by_cases ready : s.status = .ready
    · rw [runFor_succ_of_ready ready]
      cases pass : decodeNext s.cfg s.mem s.len s.cur with
      | error e =>
        have halted : (s.raise e).status ≠ .ready := Status.noConfusion
        refine ⟨s.raise e, runFor_of_not_ready halted fuel, halted, inv.raise pass, Nat.le_refl _, ?_⟩
        rw [State.raise_recIndex, Nat.sub_self]
        exact Nat.zero_le _
      | ok p =>
        obtain ⟨r, scan⟩ := p
        obtain ⟨-, advance, scan_le⟩ := scan_of_decodeNext_ok pass
        simp only [minRecord] at enough ih ⊢
        obtain ⟨t, ran, halted, inv', grows, bound⟩ := ih (s := s.commit r scan) (inv.commit ready pass)
          (by rw [State.commit_len, State.commit_cur]; omega)
        rw [State.commit_recIndex] at grows bound
        rw [State.commit_len, State.commit_cur] at bound
        exact ⟨t, ran, halted, inv', by omega, by omega⟩
    · refine ⟨s, runFor_of_not_ready ready _, ready, inv, Nat.le_refl _, ?_⟩
      rw [Nat.sub_self]
      exact Nat.zero_le _

/-- Settles O49: RUN's fuel is one pass more than LEN allows. -/
theorem runEnds : Obligations.RunEnds := by
  intro s inv
  have enough : s.len - s.cur < minRecord * (s.len / minRecord + 1) := by
    simp only [minRecord]
    omega
  obtain ⟨t, ran, halted, inv', grows, bound⟩ := runFor_ends inv enough
  simp only [minRecord] at bound
  exact ⟨t, ran, halted, inv', grows, by omega⟩

/-! ### What the host can read in a run -/

theorem State.readable_of_isSome {s : State} {r : Reg} (held : (s.regValue r).isSome = true) : s.readable r := by
  obtain ⟨v, value⟩ := Option.isSome_iff_exists.mp held
  exact ⟨v, by simp only [State.readReg, value]⟩

/-- The eleven plain registers hold a value where any Record is shown. -/
theorem State.plain_regValue_of_record {s : State} {rec : Record} (shown : s.regs = RecRegs.ofRecord rec) :
    ∀ r ∈ plainValueRegs, (s.regValue r).isSome = true := by
  intro r listed
  fin_cases listed <;>
    simp [State.regValue, heldBits, heldBit, heldOffset, shown]

/-- The ten registers of the extended header hold a value exactly where the Record has one. -/
theorem State.extended_regValue_of_record {s : State} {rec : Record} (shown : s.regs = RecRegs.ofRecord rec) :
    ∀ r ∈ extendedRegs, (s.regValue r).isSome = rec.extended.isSome := by
  intro r listed
  fin_cases listed <;>
    simp [State.regValue, heldBits, heldBit, heldOffset, shown]

/-- EXT_PRESENT says whether a committed Record has an extended header. -/
theorem ofRecord_extPresent_of_pass {c : Config} {m : Memory} {len start scan : Nat} {r : Record}
    (pass : decodeNext c m len start = .ok (r, scan)) :
    (RecRegs.ofRecord r).extPresent = some r.extended.isSome := by
  obtain ⟨-, rfl, -⟩ := (decodeNext_ok_iff c m len start scan r).mp pass
  rw [RecRegs.ofRecord_extPresent, passRecord, extendedHeaderAt_isSome]

/-- Settles O55: the registers show no value or an emitted Record, and that Record was committed by a pass. -/
theorem registersThatHoldAValue : Obligations.RegistersThatHoldAValue := by
  intro s inv
  rcases s.window_cases with empty | ⟨rec, emitted, shown⟩
  · rw [← inv.regs_window] at empty
    refine ⟨fun _ r listed => State.readReg_of_no_value (regValue_of_noValue empty r listed), fun valid => ?_⟩
    rw [empty] at valid
    cases valid
  · rw [← inv.regs_window] at shown
    obtain ⟨start, scan, pass⟩ := inv.exists_pass emitted
    have values := State.extended_regValue_of_record shown
    refine ⟨fun invalid => ?_, fun _ => ⟨fun r listed => ?_, fun absent r listed => ?_, fun present r listed => ?_⟩⟩
    · rw [shown, RecRegs.ofRecord_recValid] at invalid
      cases invalid
    · exact State.readable_of_isSome (State.plain_regValue_of_record shown r listed)
    · rw [shown, ofRecord_extPresent_of_pass pass, Option.some.injEq] at absent
      have no_value := values r listed
      rw [absent, Option.isSome_eq_false_iff, Option.isNone_iff_eq_none] at no_value
      exact State.readReg_of_no_value no_value
    · rw [shown, ofRecord_extPresent_of_pass pass, Option.some.injEq] at present
      exact State.readable_of_isSome ((values r listed).trans present)

/-- A view of an emitted Record that ends below LEN can be read, all of it. -/
theorem State.readView_of_emitted {s : State} {r : Record} {v : View} (emitted : r ∈ s.out) (shown : v ∈ r.views)
    (inside : v.off + v.len ≤ s.len) : ∃ bs, s.readView v = .ok bs ∧ bs.length = v.len :=
  ⟨_, (s.readView_ok_iff v _).mpr ⟨inside, List.mem_flatMap.mpr ⟨r, emitted, shown⟩, rfl⟩,
    Memory.readBytes_length _ _ _⟩

/-- Settles O56: a Record of OUT was committed by a pass, whose views and raw fields lie below LEN. -/
theorem shownViewsAreReadable : Obligations.ShownViewsAreReadable := by
  intro s r inv emitted
  obtain ⟨start, scan, pass⟩ := inv.exists_pass emitted
  obtain ⟨sender_end, id_ends, payload_end, scan_le⟩ := viewsInsideRecord _ _ _ _ _ _ pass
  obtain ⟨-, advance, -⟩ := scan_of_decodeNext_ok pass
  refine ⟨State.readView_of_emitted emitted ?_ (by omega), State.readView_of_emitted emitted ?_ (by omega), ?times,
    fun x present => ?ids⟩
  · exact List.mem_cons_self
  · exact List.mem_cons_of_mem _ List.mem_cons_self
  case times =>
    obtain ⟨-, rfl, -⟩ := (decodeNext_ok_iff _ _ _ _ _ _).mp pass
    exact ⟨start, _, _, rfl, (s.readField_ok_iff _ _ _ _).mpr ⟨by omega, rfl⟩,
      (s.readField_ok_iff _ _ _ _).mpr ⟨by omega, rfl⟩, rfl⟩
  case ids =>
    obtain ⟨apid_end, ctid_end⟩ := id_ends x present
    have listed : ∀ v ∈ [x.applicationId, x.contextId], v ∈ r.views := fun v mem => by
      rw [Record.views, present]
      exact List.mem_cons_of_mem _ (List.mem_cons_of_mem _ mem)
    obtain ⟨apid, read_apid, -⟩ := State.readView_of_emitted emitted
      (listed _ List.mem_cons_self) (s := s) (by omega)
    obtain ⟨ctid, read_ctid, -⟩ := State.readView_of_emitted emitted
      (listed _ (List.mem_cons_of_mem _ List.mem_cons_self)) (s := s) (by omega)
    exact ⟨⟨apid, read_apid⟩, ctid, read_ctid⟩

end Sys2Proof.Machine

/-! The lines that stand for records (30_encoding.md R86, R87). A line's bytes are a header part and its payload. Each
part of the header has the length its letter of the mnemonic announces, so together they have the H of the mnemonic's
flags byte, which is what `len=auto` counts. -/

namespace Sys2Proof.Machine

theorem except_bind_eq_ok_iff {ε α β : Type} {x : Except ε α} {f : α → Except ε β} {b : β} :
    (x >>= f) = .ok b ↔ ∃ a, x = .ok a ∧ f a = .ok b := by
  cases x with
  | error e =>
    constructor
    · intro h; cases h
    · rintro ⟨a, h, -⟩; cases h
  | ok a =>
    constructor
    · exact fun h => ⟨a, rfl, h⟩
    · rintro ⟨a', h, h'⟩; cases h; exact h'

/-! ### The lengths of a line's parts -/

@[simp] theorem Bytes4.toList_length (s : Bytes4) : s.toList.length = 4 := rfl

theorem optBytes_length (o : Option Bytes4) : (optBytes o).length = 4 * o.isSome.toNat := by
  cases o <;> rfl

theorem rsvBytes_length (o : Option (Bytes4 × Byte × Byte)) : (rsvBytes o).length = 6 := by
  cases o <;> rfl

theorem extBytes_length {o : Option ExtGroup} {bs : List Byte} (ext : extBytes o = .ok bs) :
    bs.length = 10 * o.isSome.toNat := by
  cases o with
  | none => cases ext; rfl
  | some g =>
    obtain ⟨apid, -, rest⟩ := except_bind_eq_ok_iff.mp ext
    obtain ⟨ctid, -, bytes⟩ := except_bind_eq_ok_iff.mp rest
    cases bytes
    rfl

/-- The flags byte of a legal mnemonic has its letters' bits. -/
theorem legal_flags_bits : ∀ x e s t : Bool,
    flagUEH (LineForm.legal x e s t).flags = x ∧ flagMSBF (LineForm.legal x e s t).flags = false ∧
    flagWEID (LineForm.legal x e s t).flags = e ∧ flagWSID (LineForm.legal x e s t).flags = s ∧
    flagWTMS (LineForm.legal x e s t).flags = t := by decide

theorem headerLen_legal (x e s t : Bool) :
    headerLen (LineForm.legal x e s t).flags = 26 + 4 * (e.toNat + s.toNat + t.toNat) + 10 * x.toNat := by
  obtain ⟨ueh_bit, -, weid_bit, wsid_bit, wtms_bit⟩ := legal_flags_bits x e s t
  rw [headerLen_eq, nExt, ueh, ueh_bit, weid_bit, wsid_bit, wtms_bit]

/-- `len=auto` of a legal form: H less the storage header, and the payload. -/
theorem totalLength_auto {l : RecordLine} {n : BitVec 16} (auto : l.len = none) (total : l.totalLength = .ok n) :
    (∃ x e s t, l.form = .legal x e s t) ∧ n.toNat = headerLen l.form.flags - 16 + l.pay.length := by
  simp only [RecordLine.totalLength, auto] at total
  cases form : l.form with
  | msbf =>
    rw [form] at total
    cases total
  | legal x e s t =>
    rw [form] at total
    simp only at total
    split at total
    · next fits =>
      obtain rfl := Except.ok.inj total
      exact ⟨⟨x, e, s, t, rfl⟩, by rw [BitVec.toNat_ofNat, Nat.mod_eq_of_lt fits]⟩
    · cases total

/-! ### The bytes of a line -/

/-- The header part of a line's bytes: everything before the payload, with the flags byte of the mnemonic. -/
def lineHeader (magic ecu : Bytes4) (l : RecordLine) (n : BitVec 16) (ext : List Byte) : List Byte :=
  magic.toList ++ le32Bytes l.sec ++ le32Bytes l.usec ++ ecu.toList ++ (l.form.flags :: headerTail l.ctr n) ++
    optBytes l.eid ++ optBytes l.sid ++ optBytes l.tms ++ ext ++ rsvBytes l.rsv

/-- What a line without a pattern and a flags byte of its own stands for. -/
theorem assemble_ok {magic : Bytes4} {l : RecordLine} {bs : List Byte} (no_magic : l.magic = none)
    (no_flags : l.flags = none) (bytes : l.assemble magic = .ok bs) :
    l.fieldsAgree = true ∧ ∃ ecu n ext, l.totalLength = .ok n ∧ extBytes l.ext = .ok ext ∧
      bs = lineHeader magic ecu l n ext ++ l.pay := by
  unfold RecordLine.assemble at bytes
  split at bytes
  · next agree =>
    obtain ⟨ecu, -, bytes⟩ := except_bind_eq_ok_iff.mp bytes
    obtain ⟨n, total, bytes⟩ := except_bind_eq_ok_iff.mp bytes
    obtain ⟨ext, group, bytes⟩ := except_bind_eq_ok_iff.mp bytes
    rw [no_magic, no_flags] at bytes
    exact ⟨agree, ecu, n, ext, total, group, (Except.ok.inj bytes).symm⟩
  · cases bytes

/-- The fields a legal line gives are those of its mnemonic's letters. -/
theorem fieldsAgree_legal {l : RecordLine} {x e s t : Bool} (form : l.form = .legal x e s t)
    (agree : l.fieldsAgree = true) :
    l.eid.isSome = e ∧ l.sid.isSome = s ∧ l.tms.isSome = t ∧ l.ext.isSome = x := by
  simpa only [RecordLine.fieldsAgree, form, Bool.and_eq_true, beq_iff_eq, and_assoc] using agree

theorem lineHeader_length {magic ecu : Bytes4} {l : RecordLine} {n : BitVec 16} {ext : List Byte} {x e s t : Bool}
    (form : l.form = .legal x e s t) (agree : l.fieldsAgree = true) (group : extBytes l.ext = .ok ext) :
    (lineHeader magic ecu l n ext).length = headerLen l.form.flags := by
  obtain ⟨eid, sid, tms, present⟩ := fieldsAgree_legal form agree
  have ext_len := extBytes_length group
  rw [present] at ext_len
  simp only [lineHeader, List.length_append, Bytes4.toList_length, optBytes_length, rsvBytes_length, eid, sid, tms,
    ext_len, form, headerLen_legal]
  simp only [le32Bytes, headerTail, be16uBytes, List.length_cons, List.length_nil]
  omega

/-- Settles O57: the first 20 bytes are the line's own, and H and the payload are what total_length counts. -/
theorem assembledLineIsValidRecord : Obligations.AssembledLineIsValidRecord := by
  intro magic l bs no_magic no_flags auto bytes
  obtain ⟨agree, ecu, n, ext, total, group, rfl⟩ := assemble_ok no_magic no_flags bytes
  obtain ⟨⟨x, e, s, t, form⟩, counted⟩ := totalLength_auto auto total
  have header_len := lineHeader_length (magic := magic) (ecu := ecu) (n := n) form agree group
  have header_ge := headerLen_ge l.form.flags
  have line_len : (lineHeader magic ecu l n ext ++ l.pay).length = headerLen l.form.flags + l.pay.length := by
    rw [List.length_append, header_len]
  have flags_at : (lineHeader magic ecu l n ext ++ l.pay).getD 16 0#8 = l.form.flags := rfl
  have total_at : be16u ((lineHeader magic ecu l n ext ++ l.pay).getD 18 0#8)
      ((lineHeader magic ecu l n ext ++ l.pay).getD 19 0#8) = n := be16u_of_bytes n
  refine ⟨⟨by omega, rfl, ?little, ?header_counted, ?all_counted⟩, line_len, ?payload⟩
  case little =>
    rw [flags_at, form]
    exact (legal_flags_bits x e s t).2.1
  case header_counted =>
    rw [flags_at, total_at, counted]
    exact Nat.le_add_right _ _
  case all_counted =>
    rw [total_at, counted, line_len]
    omega
  case payload => rw [← header_len, List.drop_left]

end Sys2Proof.Machine
